-- ==== Sys2Proof/Word.lean ====
section
/-! DEFINITION. The word types of the block: bytes, request words and bus addresses (30_encoding.md R56, R64; 00_scope.md R10). -/

namespace Sys2Proof

/-- A byte, an 8-bit unsigned value (00_scope.md R10). -/
abbrev Byte := BitVec 8

/-- A request word of the host request port (30_encoding.md R56). -/
abbrev Request := BitVec 48

/-- A 7-bit bus address (10_state.md R20). -/
abbrev BusAddr := BitVec 7

end Sys2Proof
end

