-- ==== Sys2Proof/Syntax.lean ====
section
/-! DEFINITION. The requests of the block, one constructor per row of spec/opcode_table.json (30_encoding.md R58). A
constructor holds the operands its row uses: `x`, `y`, `i`, `start`, `stop` are the signed integers `a`, `b` of
30_encoding.md R57; `c` is the byte `C`. -/

namespace Sys2Proof

/-- The thirteen operations of 30_encoding.md R58. -/
inductive Instr where
  /-- CLEAR, OP 0x01 (40_buffer.md R84). -/
  | clear
  /-- SETPIX x, y, c, OP 0x02; the state operand is `c != 0` (40_buffer.md R85). -/
  | setpix (x y : Int) (c : Byte)
  /-- PIXEL x, y, c, OP 0x03; the fill operand `c` is used by nothing (40_buffer.md R88). -/
  | pixel (x y : Int) (c : Byte)
  /-- WRBYTE i, v, OP 0x04 (40_buffer.md R92). -/
  | wrbyte (i : Int) (v : Byte)
  /-- WRCMD c, OP 0x10 (41_protocol.md R100). -/
  | wrcmd (c : Byte)
  /-- DISPLAY, OP 0x11 (41_protocol.md R104). -/
  | display
  /-- POWERON, OP 0x20 (42_init_sequence.md R122). -/
  | poweron
  /-- INITDISP, OP 0x21 (42_init_sequence.md R127). -/
  | initdisp
  /-- POWEROFF, OP 0x22 (42_init_sequence.md R130). -/
  | poweroff
  /-- CONTRAST c, OP 0x23 (42_init_sequence.md R132). -/
  | contrast (c : Byte)
  /-- INVERT c, OP 0x24; the flag operand is `c != 0` (42_init_sequence.md R133). -/
  | invert (c : Byte)
  /-- SETCOLS start, stop, c, OP 0x30; the default-end flag is `c[0]` (43_window.md R140). -/
  | setcols (start stop : Int) (c : Byte)
  /-- SETPAGES start, stop, c, OP 0x31; the default-end flag is `c[0]` (43_window.md R142). -/
  | setpages (start stop : Int) (c : Byte)
deriving DecidableEq, Repr

end Sys2Proof
end

