-- ==== Sys2Proof/WellFormed.lean ====
section
/-! DEFINITION. Which instructions the request word can carry: signed operands in -32768..32767 (30_encoding.md R57,
R71). The byte operands are bytes by their type. -/

namespace Sys2Proof

/-- The operand `a` or `b` fits the 16-bit signed field: the assembler refuses any other (30_encoding.md R71). -/
def operandFits (v : Int) : Bool := decide (-32768 ≤ v ∧ v ≤ 32767)

/-- The instruction has an encoding. -/
def Instr.wellFormed : Instr → Bool
  | .clear => true
  | .setpix x y _ => operandFits x && operandFits y
  | .pixel x y _ => operandFits x && operandFits y
  | .wrbyte i _ => operandFits i
  | .wrcmd _ => true
  | .display => true
  | .poweron => true
  | .initdisp => true
  | .poweroff => true
  | .contrast _ => true
  | .invert _ => true
  | .setcols start stop _ => operandFits start && operandFits stop
  | .setpages start stop _ => operandFits start && operandFits stop

end Sys2Proof
end

