-- ==== Sys2Proof/Decode.lean ====
section
/-! DEFINITION. The decoder of the request word, total on every word, and the encoder (30_encoding.md R56 to R61, R71,
R72; spec/opcode_table.json). -/

namespace Sys2Proof

/-- `OP = w[47:40]` (30_encoding.md R56). -/
def Request.opField (w : Request) : Byte := w.extractLsb' 40 8

/-- `a = sext_16(w[39:24])` (30_encoding.md R56, R57). -/
def Request.aField (w : Request) : Int := (w.extractLsb' 24 16).toInt

/-- `b = sext_16(w[23:8])` (30_encoding.md R56, R57). -/
def Request.bField (w : Request) : Int := (w.extractLsb' 8 16).toInt

/-- `c = w[7:0]` (30_encoding.md R56, R57). -/
def Request.cField (w : Request) : Byte := w.extractLsb' 0 8

/-- What the decoder reads from a request word: an operation, or the rejection of 30_encoding.md R59, which names the
`OP` byte. -/
inductive Decoded where
  | instr (i : Instr)
  | illegalOp (op : Byte)
deriving DecidableEq, Repr

/-- The instruction read, if there is one. -/
def Decoded.instr? : Decoded → Option Instr
  | .instr i => some i
  | .illegalOp _ => none

/-- The decoder: `OP` alone selects the operation (30_encoding.md R58), every other value is illegal (R59), fields an
operation does not use are ignored (R60). -/
def decode (w : Request) : Decoded :=
  match w.opField.toNat with
  | 0x01 => .instr .clear
  | 0x02 => .instr (.setpix w.aField w.bField w.cField)
  | 0x03 => .instr (.pixel w.aField w.bField w.cField)
  | 0x04 => .instr (.wrbyte w.aField w.cField)
  | 0x10 => .instr (.wrcmd w.cField)
  | 0x11 => .instr .display
  | 0x20 => .instr .poweron
  | 0x21 => .instr .initdisp
  | 0x22 => .instr .poweroff
  | 0x23 => .instr (.contrast w.cField)
  | 0x24 => .instr (.invert w.cField)
  | 0x30 => .instr (.setcols w.aField w.bField w.cField)
  | 0x31 => .instr (.setpages w.aField w.bField w.cField)
  | _ => .illegalOp w.opField

/-- The word with the four fields given; `a` and `b` are taken modulo 65536: `w = (OP << 40) |
((a mod 65536) << 24) | ((b mod 65536) << 8) | c` (30_encoding.md R71). -/
def packRequest (op : Byte) (a b : Int) (c : Byte) : Request :=
  (op.setWidth 48 <<< 40) ||| ((BitVec.ofInt 16 a).setWidth 48 <<< 24) |||
    ((BitVec.ofInt 16 b).setWidth 48 <<< 8) ||| c.setWidth 48

/-- The encoder: the word of an instruction, the omitted operands 0 (30_encoding.md R58, R71). -/
def encode : Instr → Request
  | .clear => packRequest 0x01 0 0 0
  | .setpix x y c => packRequest 0x02 x y c
  | .pixel x y c => packRequest 0x03 x y c
  | .wrbyte i v => packRequest 0x04 i 0 v
  | .wrcmd c => packRequest 0x10 0 0 c
  | .display => packRequest 0x11 0 0 0
  | .poweron => packRequest 0x20 0 0 0
  | .initdisp => packRequest 0x21 0 0 0
  | .poweroff => packRequest 0x22 0 0 0
  | .contrast c => packRequest 0x23 0 0 c
  | .invert c => packRequest 0x24 0 0 c
  | .setcols start stop c => packRequest 0x30 start stop c
  | .setpages start stop c => packRequest 0x31 start stop c

/-- The operation code of an instruction (30_encoding.md R58). -/
def Instr.opcode : Instr → Byte
  | .clear => 0x01
  | .setpix _ _ _ => 0x02
  | .pixel _ _ _ => 0x03
  | .wrbyte _ _ => 0x04
  | .wrcmd _ => 0x10
  | .display => 0x11
  | .poweron => 0x20
  | .initdisp => 0x21
  | .poweroff => 0x22
  | .contrast _ => 0x23
  | .invert _ => 0x24
  | .setcols _ _ _ => 0x30
  | .setpages _ _ _ => 0x31

/-- The operands of an instruction in the order `a`, `b`, `c`, the omitted ones 0 (30_encoding.md R58, R71). -/
def Instr.operands : Instr → Int × Int × Byte
  | .clear => (0, 0, 0)
  | .setpix x y c => (x, y, c)
  | .pixel x y c => (x, y, c)
  | .wrbyte i v => (i, 0, v)
  | .wrcmd c => (0, 0, c)
  | .display => (0, 0, 0)
  | .poweron => (0, 0, 0)
  | .initdisp => (0, 0, 0)
  | .poweroff => (0, 0, 0)
  | .contrast c => (0, 0, c)
  | .invert c => (0, 0, c)
  | .setcols start stop c => (start, stop, c)
  | .setpages start stop c => (start, stop, c)

/-- The assembler on numeric operands: it refuses `a` or `b` outside -32768..32767 and `c` outside 0..255, and gives
the word otherwise (30_encoding.md R71; the text form is left out, log 13). -/
def assemble (op : Byte) (a b c : Int) : Option Request :=
  if operandFits a && operandFits b && decide (0 ≤ c ∧ c ≤ 255) then
    some (packRequest op a b (BitVec.ofInt 8 c))
  else none

/-- Pseudo-instruction `SETCOLS s` (30_encoding.md R72). -/
def pseudoSetcols (s : Int) : Instr := .setcols s 0 1

/-- Pseudo-instruction `SETPAGES s` (30_encoding.md R72). -/
def pseudoSetpages (s : Int) : Instr := .setpages s 0 1

/-- Pseudo-instruction `PIXON x, y` (30_encoding.md R72). -/
def pseudoPixon (x y : Int) : Instr := .setpix x y 1

/-- Pseudo-instruction `PIXOFF x, y` (30_encoding.md R72). -/
def pseudoPixoff (x y : Int) : Instr := .setpix x y 0

/-- Pseudo-instruction `PIXEL x, y` (30_encoding.md R72). -/
def pseudoPixel (x y : Int) : Instr := .pixel x y 0

/-- Pseudo-instruction `INVERT` (30_encoding.md R72). -/
def pseudoInvert : Instr := .invert 1

/-- Pseudo-instruction `NORMAL` (30_encoding.md R72). -/
def pseudoNormal : Instr := .invert 0

/-- The instruction of a table word `w`: the table numbers the one 48-bit word from bit 0, its least significant bit,
so the word is `w` itself, and the bits above `nbits` are 0 (DEDUCED from 30_encoding.md R56 and
spec/opcode_table.json, safe: log 14). -/
def decodeTableWord (nbits w : Nat) : Option Instr :=
  (decode (BitVec.ofNat 48 (w % 2 ^ nbits))).instr?

end Sys2Proof
end

