-- ==== Sys2Proof/Config.lean ====
section
/-! DEFINITION. What is fixed for the block: the constants of 00_scope.md R8 and 10_state.md R19, and the values the
spec leaves open, as free values (constants with no body: nothing can be proved of the value they have). -/

namespace Sys2Proof

/-- The two supported panel heights (10_state.md R18). -/
inductive Height where
  | h32
  | h64
deriving DecidableEq, Repr

/-- The eight configuration bytes of INITDISP, `INIT_PARAMS` at one configuration (10_state.md R23). -/
structure InitParams where
  clkdiv     : Byte
  mux        : Byte
  startline  : Byte
  chargepump : Byte
  addrmode   : Byte
  compins    : Byte
  contrast0  : Byte
  precharge  : Byte
deriving DecidableEq, Repr, Inhabited

/-- The platform's answer to one bus transaction (30_encoding.md R64). -/
inductive BusAnswer where
  | ack
  | fail
deriving DecidableEq, Repr, Inhabited

/-- A level of the reset-control line: `low` is 0, `high` is 1 (10_state.md R27, 42_init_sequence.md R123). -/
inductive Level where
  | low
  | high
deriving DecidableEq, Repr, Inhabited

/-- The platform's answer to one read of the bitmap file: it is read, or the read fails (48_clients.md R192). -/
inductive ReadAnswer where
  | done
  | failed
deriving DecidableEq, Repr, Inhabited

namespace Config

/-- `COLUMNS` (10_state.md R19). -/
def columns : Nat := 128

/-- `P`, the prefix count (10_state.md R19; the spec's D6). -/
def prefixCount : Nat := 1

/-- `CMD_MARKER` (10_state.md R19). -/
def cmdMarker : Byte := 0x80

/-- `DATA_MARKER` (10_state.md R19). -/
def dataMarker : Byte := 0x40

/-- `T_RST_SETTLE_MS`, nominal (00_scope.md R8, 42_init_sequence.md R124). -/
def tRstSettleMs : Nat := 10

/-- `T_RST_LOW_MS`, nominal (00_scope.md R8, 42_init_sequence.md R124). -/
def tRstLowMs : Nat := 1

/-- FREE VALUE: `INIT_PARAMS(H, EXT_SUPPLY)` of the block that `State.reset` stands for. OPEN in the spec
(92_eei_decisions.md D17). DESIGN CHOICE of form, safe: log 2. -/
opaque initParams : Height → Bool → InitParams

/-- FREE VALUE: `T_POWER_MS` of the block that `State.reset` stands for. OPEN in the spec (92_eei_decisions.md D22).
DESIGN CHOICE of form, safe: log 2. -/
opaque tPowerMs : Nat

/-- FREE VALUE: the answer of the n-th bus transaction that is answered by a draw (30_encoding.md R64,
92_eei_decisions.md D16). DESIGN CHOICE of form, safe: log 3. -/
opaque freeBusAnswer : Nat → BusAnswer

/-- FREE VALUE: the level of the reset-control line before the first POWERON (10_state.md R27, the spec's "draw").
DESIGN CHOICE of form, safe: log 4. -/
opaque freeRstOut : Level

/-- FREE VALUE: the answer of the n-th read of the bitmap file that is answered by a draw (48_clients.md R192).
DESIGN CHOICE of form, safe: log 18. -/
opaque freeReadAnswer : Nat → ReadAnswer

end Config

end Sys2Proof
end

