-- ==== Sys2Proof/Machine/State.lean ====
section
/-! DEFINITION. The state of the block (10_state.md R16 to R35), as plain data, the records its ports carry, and the
state after reset (10_state.md R35, 70_reset_and_hazards.md R200). -/

namespace Sys2Proof.Machine

/-- `INIT_PARAMS` as plain data: its value at each of the four arguments `(H, EXT_SUPPLY)` (10_state.md R23,
42_init_sequence.md R126). -/
structure InitTable where
  h32Internal : InitParams
  h32External : InitParams
  h64Internal : InitParams
  h64External : InitParams
deriving DecidableEq, Repr

/-- The table of a function: one entry per argument. -/
def InitTable.ofFn (f : Height → Bool → InitParams) : InitTable :=
  { h32Internal := f .h32 false, h32External := f .h32 true, h64Internal := f .h64 false, h64External := f .h64 true }

/-- `CFG`, the configuration, read-only after reset (10_state.md R16 item 1, R18 to R23). -/
structure Cfg where
  /-- `H` (R18). -/
  height     : Height
  /-- `EXT_SUPPLY` (R21). -/
  extSupply  : Bool
  /-- `ADDR` (R20). -/
  addr       : BusAddr
  /-- `HAS_RST` (R22). -/
  hasRst     : Bool
  /-- `INIT_PARAMS` (R23). -/
  initParams : InitTable
  /-- `T_POWER_MS` (R23). -/
  tPowerMs   : Nat
deriving DecidableEq, Repr

/-- The frame buffer's contents: the bytes that differ from what an unlisted index reads as, indices strictly rising
(20_memory.md R38; log 8). -/
abbrev Memory := List Host.Cell

/-- The initialization-sequence state (10_state.md R24; log 16). -/
inductive Fsm where
  | off
  | poweringOn
  | initialized
  | active
  | inverted
deriving DecidableEq, Repr

/-- The axis of a window error (43_window.md R141). -/
inductive Axis where
  | col
  | page
deriving DecidableEq, Repr

/-- The bound a window error names (43_window.md R141). -/
inductive Bound where
  | start
  | stop
deriving DecidableEq, Repr

/-- The `info` of a response (30_encoding.md R69, 60_exceptions.md R153), as a record: the spec gives it no bit layout
(log 17). -/
inductive Info where
  /-- success -/
  | none
  /-- ERR_ILLEGAL_OP: the OP byte -/
  | op (op : Byte)
  /-- ERR_PIXEL_RANGE: (x, y) -/
  | pixel (x y : Int)
  /-- ERR_BYTE_RANGE: i -/
  | index (i : Int)
  /-- ERR_BUS: the transactions ACKed before -/
  | acked (k : Nat)
  /-- the window errors: (axis, which bound, value, lowest legal, highest legal) -/
  | window (axis : Axis) (bound : Bound) (value low high : Int)
deriving DecidableEq, Repr

/-- The errors an operation raises, with what each records (60_exceptions.md R153). -/
inductive Err where
  | illegalOp (op : Byte)
  | pixelRange (x y : Int)
  | byteRange (i : Int)
  | bus (k : Nat)
  | window (axis : Axis) (bound : Bound) (value low high : Int)
deriving DecidableEq, Repr

/-- A response `(status, info)` (30_encoding.md R69). -/
structure Response where
  status : Byte
  info   : Info
deriving DecidableEq, Repr

/-- What one output port shows (30_encoding.md R70 items 2 to 5). -/
inductive Event where
  /-- one bus transaction and the platform's answer to it (30_encoding.md R64) -/
  | busTx (addr : BusAddr) (bytes : List Byte) (answer : BusAnswer)
  /-- one completed delay request, with its nominal length (42_init_sequence.md R124, R125) -/
  | delay (ms : Nat)
  /-- the level the reset-control line is driven to (10_state.md R27) -/
  | rstOut (level : Level)
  /-- one response (30_encoding.md R69) -/
  | response (r : Response)
deriving DecidableEq, Repr

/-- The reasons the machine stops with a fault: none. "No behaviour of this block stops it"
(93_implementation_defined.md; 60_exceptions.md R150, R152): an error is a response and the block goes on. Nothing
raises one, so it is safe (log 9). -/
inductive Fault where
deriving DecidableEq, Repr

/-- The reasons a step is refused. -/
inductive Refusal where
  /-- Raised by an arm of exec for an instruction that has no meaning yet; safe. No arm raises it: every instruction
  has its meaning. -/
  | notModelled (mnemonic : String)
deriving DecidableEq, Repr

/-- The state of the block (10_state.md R16), and after it the model's own record of the ports and draws. -/
structure State where
  /-- `CFG` (R16 item 1) -/
  cfg      : Cfg
  /-- `FB` (R28) -/
  fb       : Memory
  /-- `fsm` (R24) -/
  fsm      : Fsm
  /-- `seq` (R26) -/
  seq      : Nat
  /-- `busy` (R30) -/
  busy     : Bool
  /-- `RstOut`: a level where the line exists (R27) -/
  rstOut   : Option Level
  /-- MODEL'S OWN: the words waiting on the request port, the next one first (30_encoding.md R70 item 1; log 5) -/
  requests : List Request
  /-- MODEL'S OWN: what the output ports have shown, oldest first (30_encoding.md R70; log 7) -/
  trace    : List Event
  /-- MODEL'S OWN: the platform's coming bus answers, as far as they are given (30_encoding.md R64; log 3) -/
  answers  : List BusAnswer
  /-- MODEL'S OWN: how many bus answers have been free values (log 3) -/
  draws    : Nat
deriving DecidableEq, Repr

/-- The state after construction with a configuration (10_state.md R35, 70_reset_and_hazards.md R200): the frame buffer
lists nothing, so it reads 0x40 at index 0 and 0x00 elsewhere (R28). -/
def State.ofCfg (c : Cfg) : State :=
  { cfg := c
    fb := []
    fsm := .off
    seq := 0
    busy := false
    rstOut := if c.hasRst then some Config.freeRstOut else none
    requests := []
    trace := []
    answers := []
    draws := 0 }

/-- The construction that `State.reset` stands for: `HAS_RST` has the spec's default (10_state.md R22); the other
arguments are DESIGN CHOICE, unsafe for a claim about `State.reset` alone: log 1. `INIT_PARAMS` and `T_POWER_MS` are
free values: log 2. -/
def Cfg.default : Cfg :=
  { height := .h64
    extSupply := false
    addr := 0x3C
    hasRst := false
    initParams := .ofFn Config.initParams
    tPowerMs := Config.tPowerMs }

/-- The machine right after reset (10_state.md R35). -/
def State.reset : State := State.ofCfg Cfg.default

end Sys2Proof.Machine
end

