-- ==== Sys2Proof/Machine/Flags.lean ====
section
/-! DEFINITION. The block has no flags, condition codes or status register (10_state.md R29). What stands in their place
is the response: its status code and info record (60_exceptions.md R153), and the encodings of `fsm`, of the reset line's
level and of `busy`. -/

/-- The bit of a reset-line level: 1 is high, 0 is low (10_state.md R27). -/
def Sys2Proof.Level.bit : Sys2Proof.Level → BitVec 1
  | .low => 0
  | .high => 1

/-- `CFG_H`, 1 bit: 0 is 32, 1 is 64 (10_state.md R18). -/
def Sys2Proof.Height.bit : Sys2Proof.Height → BitVec 1
  | .h32 => 0
  | .h64 => 1

namespace Sys2Proof.Machine

/-- The status code of an error (60_exceptions.md R153). -/
def Err.code : Err → Byte
  | .illegalOp _ => 0x01
  | .pixelRange _ _ => 0x02
  | .byteRange _ => 0x03
  | .bus _ => 0x04
  | .window .col .start _ _ _ => 0x10
  | .window .col .stop _ _ _ => 0x11
  | .window .page .start _ _ _ => 0x12
  | .window .page .stop _ _ _ => 0x13

/-- The info record of an error (60_exceptions.md R153). -/
def Err.info : Err → Info
  | .illegalOp op => .op op
  | .pixelRange x y => .pixel x y
  | .byteRange i => .index i
  | .bus k => .acked k
  | .window axis bound value low high => .window axis bound value low high

/-- The response of an error (60_exceptions.md R152 item 3). -/
def Err.response (e : Err) : Response := { status := e.code, info := e.info }

/-- The response `(0x00, none)` of success (00_scope.md R11). -/
def Response.ok : Response := { status := 0x00, info := .none }

/-- The 3-bit encoding of `fsm` (10_state.md R24). -/
def Fsm.code : Fsm → BitVec 3
  | .off => 0
  | .poweringOn => 1
  | .initialized => 2
  | .active => 3
  | .inverted => 4

end Sys2Proof.Machine
end

