-- ==== Sys2Proof/Machine/Memory.lean ====
section
/-! DEFINITION. The frame buffer as a list of cells in one canonical form (20_memory.md R38, R39): indices strictly
rising, and no cell equal to what an unlisted index reads as. -/

namespace Sys2Proof.Machine

/-- What an unlisted index reads as: the reset contents, the marker at index 0 and 0x00 elsewhere (10_state.md R28). -/
def Memory.unlisted (i : Nat) : Byte := if i = 0 then Config.dataMarker else 0

/-- The byte at index `i` (`MemRead(i, 1)`, 00_scope.md R11). -/
def Memory.read : Memory → Nat → Byte
  | [], i => Memory.unlisted i
  | cell :: rest, i => if cell.1 = i then cell.2 else Memory.read rest i

/-- The cell of value `v` at index `i`, in front of `rest`, unless an unlisted index reads as `v`. -/
def Memory.cons (i : Nat) (v : Byte) (rest : Memory) : Memory :=
  if v = Memory.unlisted i then rest else (i, v) :: rest

/-- The buffer with the byte at index `i` set to `v` (`MemWrite(i, 1, v)`, 00_scope.md R11). -/
def Memory.write : Memory → Nat → Byte → Memory
  | [], i, v => Memory.cons i v []
  | cell :: rest, i, v =>
    if i < cell.1 then Memory.cons i v (cell :: rest)
    else if i = cell.1 then Memory.cons i v rest
    else cell :: Memory.write rest i v

/-- Every index below `n` back to what an unlisted index reads as: 0x00, and the marker at index 0. This is what the
loop of CLEAR leaves (40_buffer.md R84; `Memory.clearLoop` is that loop as the rule writes it). -/
def Memory.clearBelow (n : Nat) (m : Memory) : Memory := m.filter (fun cell => decide (n ≤ cell.1))

/-- The loop of CLEAR as 40_buffer.md R84 writes it: every index `0 .. n-1` set to 0x00, then the marker written at
index 0. -/
def Memory.clearLoop (n : Nat) (m : Memory) : Memory :=
  ((List.range n).foldl (fun acc i => acc.write i 0) m).write 0 Config.dataMarker

/-- The bytes at indices `0 .. n-1`, in ascending order (20_memory.md R44). -/
def Memory.bytes (n : Nat) (m : Memory) : List Byte := (List.range n).map m.read

/-- Every cell of `m` has an index of at least `k`, the indices rise strictly, and no cell holds what an unlisted index
reads as. -/
def Memory.wfFrom : Nat → Memory → Bool
  | _, [] => true
  | k, cell :: rest =>
    decide (k ≤ cell.1) && decide (cell.2 ≠ Memory.unlisted cell.1) && Memory.wfFrom (cell.1 + 1) rest

/-- The canonical form. -/
def Memory.wf (m : Memory) : Bool := Memory.wfFrom 0 m

/-- Every listed index is below `n`. -/
def Memory.within (n : Nat) (m : Memory) : Bool := m.all (fun cell => decide (cell.1 < n))

end Sys2Proof.Machine
end

