-- ==== Sys2Proof/Machine/Operands.lean ====
section
/-! DEFINITION. The operand forms: the geometry of a configuration, the truth of an operand, the range checks, the
bit-pixel mapper and the window check (10_state.md R19, R23; 20_memory.md R37, R40; 30_encoding.md R57; 40_buffer.md
R82, R91; 43_window.md R140 to R142). -/

/-- `H` in pixel rows (10_state.md R18). -/
def Sys2Proof.Height.rows : Sys2Proof.Height → Nat
  | .h32 => 32
  | .h64 => 64

namespace Sys2Proof.Machine

/-- `PAGES = H div 8` (10_state.md R19). -/
def Cfg.pages (c : Cfg) : Nat := c.height.rows / 8

/-- `FB_LEN = P + PAGES * COLUMNS` (10_state.md R19). -/
def Cfg.fbLen (c : Cfg) : Nat := Config.prefixCount + c.pages * Config.columns

/-- The bytes of `INIT_PARAMS(H, EXT_SUPPLY)` at an argument (10_state.md R23). -/
def InitTable.get (t : InitTable) : Height → Bool → InitParams
  | .h32, false => t.h32Internal
  | .h32, true => t.h32External
  | .h64, false => t.h64Internal
  | .h64, true => t.h64External

/-- The configuration bytes INITDISP uses, `INIT_PARAMS(H, EXT_SUPPLY)` (42_init_sequence.md R126, R127). -/
def Cfg.params (c : Cfg) : InitParams := c.initParams.get c.height c.extSupply

/-- A Boolean operand: `c != 0` (30_encoding.md R57). -/
def truth (c : Byte) : Bool := c != 0

/-- The default-end flag `c[0]` (30_encoding.md R57). -/
def dfltFlag (c : Byte) : Bool := c.getLsbD 0

/-- The end operand of a window setter: the bound when the default-end flag is set, `b` otherwise (43_window.md R140,
R142). -/
def windowStop (c : Byte) (b bound : Int) : Int := if dfltFlag c then bound else b

/-- The last column, `COLUMNS - 1` (43_window.md R140). -/
def lastColumn : Int := (Config.columns : Int) - 1

/-- The last page, `PAGES - 1` (43_window.md R142). -/
def Cfg.lastPage (c : Cfg) : Int := (c.pages : Int) - 1

/-- The pixel range check (40_buffer.md R82, 20_memory.md R37). -/
def inRange (c : Cfg) (x y : Int) : Bool :=
  decide (0 ≤ x ∧ x < (Config.columns : Int) ∧ 0 ≤ y ∧ y < (c.pages : Int) * 8)

/-- The bit-pixel mapper `MAP(x, y) = (i, m)` (20_memory.md R40); applied to in-range coordinates only. -/
def pixMap (x y : Int) : Nat × Byte :=
  let page := y / 8
  let n := y % 8
  (((Config.prefixCount : Int) + x + page * (Config.columns : Int)).toNat, (1 : Byte) <<< n.toNat)

/-- The byte range check of WRBYTE, `P <= i < FB_LEN` (40_buffer.md R91). -/
def byteInRange (c : Cfg) (i : Int) : Bool :=
  decide ((Config.prefixCount : Int) ≤ i ∧ i < (c.fbLen : Int))

/-- The window check, the start condition first; `none` when both hold (43_window.md R141). -/
def checkWindow (axis : Axis) (start stop bound : Int) : Option Err :=
  if ¬ (0 ≤ start ∧ start ≤ bound) then some (.window axis .start start 0 bound)
  else if ¬ (start ≤ stop ∧ stop ≤ bound) then some (.window axis .stop stop start bound)
  else none

/-- The byte sent for a bound that passed the window check (43_window.md R140). -/
def boundByte (v : Int) : Byte := BitVec.ofInt 8 v

end Sys2Proof.Machine
end

