-- ==== Sys2Proof/Machine/Ops.lean ====
section
/-! DEFINITION. The shared operations over the state: register and frame-buffer access, the ports, the framer's two
primitives, and how an operation ends: raising an error and returning the one response (00_scope.md R11; 41_protocol.md
R101 to R103; 60_exceptions.md R152). -/

namespace Sys2Proof.Machine

open Host (Outcome)

/-! ## Registers, frame buffer, ports -/

/-- `seq <- n` (10_state.md R26). -/
def setSeq (n : Nat) (s : State) : State := { s with seq := n }

/-- `fsm <- f` (10_state.md R24). -/
def setFsm (f : Fsm) (s : State) : State := { s with fsm := f }

/-- `MemRead(i, 1)` (00_scope.md R11). -/
def memRead (i : Nat) (s : State) : Byte := s.fb.read i

/-- `MemWrite(i, 1, v)` (00_scope.md R11). -/
def memWrite (i : Nat) (v : Byte) (s : State) : State := { s with fb := s.fb.write i v }

/-- One more event on an output port (30_encoding.md R70). -/
def emit (e : Event) (s : State) : State := { s with trace := s.trace ++ [e] }

/-- `Delay(ms)`: the request, which the platform always completes (42_init_sequence.md R125; log 10). -/
def delay (ms : Nat) (s : State) : State := emit (.delay ms) s

/-- `RstOut <- l` (10_state.md R27). -/
def driveRst (l : Level) (s : State) : State := emit (.rstOut l) { s with rstOut := some l }

/-! ## The bus port -/

/-- The answer of the k-th bus transaction from this state on, counted from 0: a given answer, or a free value
(30_encoding.md R64; log 3). -/
def answerAt (s : State) (k : Nat) : BusAnswer :=
  (s.answers[k]?).getD (Config.freeBusAnswer (s.draws + (k - s.answers.length)))

/-- The next answer is used up: the first given one, or else one draw (log 3). -/
def takeAnswer (s : State) : State :=
  match s.answers with
  | [] => { s with draws := s.draws + 1 }
  | _ :: rest => { s with answers := rest }

/-- `BusTx(ADDR, bytes)`: the transaction and the platform's answer to it (30_encoding.md R64, 00_scope.md R11). -/
def busTx (bytes : List Byte) (s : State) : State :=
  emit (.busTx s.cfg.addr bytes (answerAt s 0)) (takeAnswer s)

/-! ## How an operation goes on and ends -/

/-- An operation so far: it goes on from a state, or it has raised an error in a state. -/
inductive Result where
  | done (s : State)
  | raised (e : Err) (s : State)
deriving DecidableEq, Repr

/-- The rest of the operation; after a raise no later effect happens (60_exceptions.md R152 item 2). -/
def Result.andThen : Result → (State → Result) → Result
  | .done s, f => f s
  | .raised e s, _ => .raised e s

/-- The response: `busy` returns to 0 (60_exceptions.md R152 item 3, 10_state.md R30, 30_encoding.md R69). -/
def respond (r : Response) (s : State) : State := emit (.response r) { s with busy := false }

/-- The end of an operation: OK, or the error's response. This is the block's whole error entry: earlier effects stay,
nothing is saved, no mode changes (60_exceptions.md R152, R161). There is no return from it (R162). -/
def Result.complete : Result → State
  | .done s => respond Response.ok s
  | .raised e s => respond e.response s

/-- The outcome of an operation: always a next state (60_exceptions.md R150). -/
def finish (r : Result) : Outcome State Fault Refusal := .next r.complete

/-- The range or window check of an operation: raise the error, or go on (00_scope.md R11). -/
def check (e : Option Err) (s : State) : Result :=
  match e with
  | some e => .raised e s
  | none => .done s

/-! ## The framer's primitives -/

/-- One transaction of the framer: ACK advances `seq`, FAIL raises ERR_BUS with the count of the operation's ACKed
transactions (41_protocol.md R101, R102, R103). -/
def sendFrame (bytes : List Byte) (s : State) : Result :=
  match answerAt s 0 with
  | .ack => .done (setSeq (s.seq + 1) (busTx bytes s))
  | .fail => .raised (.bus s.seq) (busTx bytes s)

/-- The control frame of a byte (30_encoding.md R62). -/
def controlFrame (b : Byte) : List Byte := [Config.cmdMarker, b]

/-- The data frame: the whole frame buffer (30_encoding.md R63). -/
def dataFrame (s : State) : List Byte := s.fb.bytes s.cfg.fbLen

/-- `send_cmd(b)` (41_protocol.md R101). -/
def sendCmd (b : Byte) (s : State) : Result := sendFrame (controlFrame b) s

/-- `send_data()` (41_protocol.md R102). -/
def sendData (s : State) : Result := sendFrame (dataFrame s) s

/-- `send_cmd` on each byte in order (41_protocol.md R101; 30_encoding.md R67). -/
def sendCmds : List Byte → State → Result
  | [], s => .done s
  | b :: rest, s => (sendCmd b s).andThen (sendCmds rest)

/-! ## The request port -/

/-- Acceptance of the next request: only when `busy` is 0 and a word waits; `busy` becomes 1 (10_state.md R30). -/
def accept (s : State) : Option (Request × State) :=
  match s.busy, s.requests with
  | false, w :: rest => some (w, { s with requests := rest, busy := true })
  | _, _ => none

/-- The state in which the operation of an accepted request begins: `seq` is 0 at the start of every operation
(10_state.md R26), those of 40_buffer.md too, whose own rules write the frame buffer only (40_buffer.md R81; log 6). -/
def startOperation (s : State) : State := setSeq 0 s

/-- An illegal request: nothing is done and the response is `(ERR_ILLEGAL_OP, OP)` (30_encoding.md R59,
60_exceptions.md R155). -/
def illegalRequest (op : Byte) (s : State) : Outcome State Fault Refusal := finish (.raised (.illegalOp op) s)

/-- A word put on the request port, before any other that waits. -/
def offer (w : Request) (s : State) : State := { s with requests := w :: s.requests }

end Sys2Proof.Machine
end

