-- ==== Sys2Proof/Machine/Buffer.lean ====
section
/-! DEFINITION. The frame-buffer operations CLEAR, SETPIX, PIXEL and WRBYTE (40_buffer.md). They write the frame buffer
only (R81); `seq` is 0 when they begin (10_state.md R26, `startOperation`; log 6). -/

namespace Sys2Proof.Machine

open Host (Outcome)

/-- CLEAR (40_buffer.md R84). -/
def execClear (s : State) : Outcome State Fault Refusal :=
  finish (.done { s with fb := s.fb.clearBelow s.cfg.fbLen })

/-- SETPIX x, y, c (40_buffer.md R85). -/
def execSetpix (x y : Int) (c : Byte) (s : State) : Outcome State Fault Refusal :=
  finish (if inRange s.cfg x y then
      let (i, m) := pixMap x y
      let old := memRead i s
      .done (memWrite i (if truth c then old ||| m else old &&& ~~~m) s)
    else .raised (.pixelRange x y) s)

/-- PIXEL x, y, fill: the fill operand is read by nothing (40_buffer.md R88). -/
def execPixel (x y : Int) (_fill : Byte) (s : State) : Outcome State Fault Refusal :=
  finish (if inRange s.cfg x y then
      let (i, m) := pixMap x y
      .done (memWrite i (memRead i s ||| m) s)
    else .raised (.pixelRange x y) s)

/-- WRBYTE i, v (40_buffer.md R92). -/
def execWrbyte (i : Int) (v : Byte) (s : State) : Outcome State Fault Refusal :=
  finish (if byteInRange s.cfg i then .done (memWrite i.toNat v s) else .raised (.byteRange i) s)

end Sys2Proof.Machine
end

