-- ==== Sys2Proof/Machine/Commands.lean ====
section
/-! DEFINITION. The controller's command bytes (30_encoding.md R66) and the configuration list of INITDISP
(42_init_sequence.md R127). -/

namespace Sys2Proof.Machine.Cmd

/-- display-off (30_encoding.md R66) -/
def displayOff : Byte := 0xAE
/-- set-contrast -/
def setContrast : Byte := 0x81
/-- display-all-on-resume -/
def resumeRam : Byte := 0xA4
/-- normal-display -/
def normalDisplay : Byte := 0xA6
/-- invert-display -/
def invertDisplay : Byte := 0xA7
/-- display-on -/
def displayOn : Byte := 0xAF
/-- set-display-offset -/
def displayOffset : Byte := 0xD3
/-- set-COM-pins -/
def comPins : Byte := 0xDA
/-- set-display-clock-div -/
def clockDiv : Byte := 0xD5
/-- set-precharge -/
def precharge : Byte := 0xD9
/-- set-multiplex -/
def multiplex : Byte := 0xA8
/-- memory-addressing-mode -/
def addressingMode : Byte := 0x20
/-- column-address-range -/
def columnRange : Byte := 0x21
/-- page-address-range -/
def pageRange : Byte := 0x22
/-- COM-scan-increment -/
def comScanIncrement : Byte := 0xC0
/-- segment-remap -/
def segmentRemap : Byte := 0xA0
/-- charge-pump -/
def chargePump : Byte := 0x8D
/-- stop-scroll -/
def stopScroll : Byte := 0x2E

end Sys2Proof.Machine.Cmd

namespace Sys2Proof.Machine

/-- `INIT_SEQ[0] .. INIT_SEQ[22]`: the configuration list before display-on (42_init_sequence.md R127). How many bytes
each item takes is the rule's table, which the spec takes from general knowledge (UNVERIFIED, unsafe: log 11). -/
def initConfig (p : InitParams) : List Byte :=
  [ Cmd.displayOff,
    Cmd.clockDiv, p.clkdiv,
    Cmd.multiplex, p.mux,
    Cmd.displayOffset, 0x00,
    p.startline,
    Cmd.chargePump, p.chargepump,
    Cmd.addressingMode, p.addrmode,
    Cmd.segmentRemap,
    Cmd.comScanIncrement,
    Cmd.comPins, p.compins,
    Cmd.setContrast, p.contrast0,
    Cmd.precharge, p.precharge,
    Cmd.resumeRam,
    Cmd.normalDisplay,
    Cmd.stopScroll ]

/-- The six control frames of DISPLAY: the full column window, then the full page window (41_protocol.md R104). -/
def fullWindow (c : Cfg) : List Byte :=
  [ Cmd.columnRange, 0x00, boundByte lastColumn, Cmd.pageRange, 0x00, boundByte c.lastPage ]

end Sys2Proof.Machine
end

