-- ==== Sys2Proof/Machine/Framer.lean ====
section
/-! DEFINITION. The operations built directly on the framer: WRCMD and DISPLAY (41_protocol.md). -/

namespace Sys2Proof.Machine

open Host (Outcome)

/-- WRCMD c (41_protocol.md R100). -/
def execWrcmd (c : Byte) (s : State) : Outcome State Fault Refusal :=
  finish (sendCmd c (setSeq 0 s))

/-- DISPLAY (41_protocol.md R104). -/
def execDisplay (s : State) : Outcome State Fault Refusal :=
  finish ((sendCmds (fullWindow s.cfg) (setSeq 0 s)).andThen sendData)

end Sys2Proof.Machine
end

