-- ==== Sys2Proof/Machine/InitSequence.lean ====
section
/-! DEFINITION. The initialization sequence and the display-state commands: POWERON, INITDISP, POWEROFF, CONTRAST and
INVERT (42_init_sequence.md). `fsm` never gates an operation (10_state.md R25). -/

namespace Sys2Proof.Machine

open Host (Outcome)

/-- The reset pulse of POWERON: high, settle, low, pulse, high, settle (42_init_sequence.md R122). -/
def resetPulse (s : State) : State :=
  delay Config.tRstSettleMs (driveRst .high
    (delay Config.tRstLowMs (driveRst .low
      (delay Config.tRstSettleMs (driveRst .high s)))))

/-- POWERON (42_init_sequence.md R122). -/
def execPoweron (s : State) : Outcome State Fault Refusal :=
  let begun := setFsm .poweringOn (setSeq 0 s)
  finish (.done (if s.cfg.hasRst then resetPulse begun else delay s.cfg.tPowerMs begun))

/-- INITDISP (42_init_sequence.md R127). -/
def execInitdisp (s : State) : Outcome State Fault Refusal :=
  finish ((sendCmds (initConfig s.cfg.params) (setSeq 0 s)).andThen fun configured =>
    (sendCmd Cmd.displayOn (setFsm .initialized configured)).andThen fun shown =>
      .done (setFsm .active shown))

/-- POWEROFF (42_init_sequence.md R130). -/
def execPoweroff (s : State) : Outcome State Fault Refusal :=
  finish ((sendCmd Cmd.displayOff (setSeq 0 s)).andThen fun sent => .done (setFsm .off sent))

/-- CONTRAST c (42_init_sequence.md R132). -/
def execContrast (c : Byte) (s : State) : Outcome State Fault Refusal :=
  finish (sendCmds [Cmd.setContrast, c] (setSeq 0 s))

/-- Where INVERT moves `fsm` after its frame is ACKed (42_init_sequence.md R121, R133). -/
def invertFsm (flag : Bool) : Fsm → Fsm
  | .active => if flag then .inverted else .active
  | .inverted => if flag then .inverted else .active
  | .off => .off
  | .poweringOn => .poweringOn
  | .initialized => .initialized

/-- INVERT c (42_init_sequence.md R133). -/
def execInvert (c : Byte) (s : State) : Outcome State Fault Refusal :=
  finish ((sendCmd (if truth c then Cmd.invertDisplay else Cmd.normalDisplay) (setSeq 0 s)).andThen fun sent =>
    .done (setFsm (invertFsm (truth c) sent.fsm) sent))

end Sys2Proof.Machine
end

