-- ==== Sys2Proof/Machine/Window.lean ====
section
/-! DEFINITION. The addressing-window setters SETCOLS and SETPAGES (43_window.md). -/

namespace Sys2Proof.Machine

open Host (Outcome)

/-- The body the two setters share: `seq <- 0`, the window check, then the addressing command and the two bounds, one
control frame each (43_window.md R140 to R142). -/
def sendWindow (axis : Axis) (command : Byte) (start stop bound : Int) (s : State) : Result :=
  (check (checkWindow axis start stop bound) (setSeq 0 s)).andThen
    (sendCmds [command, boundByte start, boundByte stop])

/-- SETCOLS start, stop, c (43_window.md R140). -/
def execSetcols (start stop : Int) (c : Byte) (s : State) : Outcome State Fault Refusal :=
  finish (sendWindow .col Cmd.columnRange start (windowStop c stop lastColumn) lastColumn s)

/-- SETPAGES start, stop, c (43_window.md R142). -/
def execSetpages (start stop : Int) (c : Byte) (s : State) : Outcome State Fault Refusal :=
  finish (sendWindow .page Cmd.pageRange start (windowStop c stop s.cfg.lastPage) s.cfg.lastPage s)

end Sys2Proof.Machine
end

