-- ==== Sys2Proof/Machine/Dispatch.lean ====
section
/-! DEFINITION. One arm per instruction: each calls its meaning (30_encoding.md R58). -/

namespace Sys2Proof.Machine

def exec (i : Instr) (s : State) : Host.Outcome State Fault Refusal :=
  match i with
  | .clear => Sys2Proof.Machine.execClear s
  | .setpix x y c => Sys2Proof.Machine.execSetpix x y c s
  | .pixel x y c => Sys2Proof.Machine.execPixel x y c s
  | .wrbyte k v => Sys2Proof.Machine.execWrbyte k v s
  | .wrcmd c => Sys2Proof.Machine.execWrcmd c s
  | .display => Sys2Proof.Machine.execDisplay s
  | .poweron => Sys2Proof.Machine.execPoweron s
  | .initdisp => Sys2Proof.Machine.execInitdisp s
  | .poweroff => Sys2Proof.Machine.execPoweroff s
  | .contrast c => Sys2Proof.Machine.execContrast c s
  | .invert c => Sys2Proof.Machine.execInvert c s
  | .setcols start stop c => Sys2Proof.Machine.execSetcols start stop c s
  | .setpages start stop c => Sys2Proof.Machine.execSetpages start stop c s

end Sys2Proof.Machine
end

