-- ==== Sys2Proof/Machine/Step.lean ====
section
/-! DEFINITION. One step of the block: accept a request, decode it, perform it from `seq` 0 on and answer it (10_state.md
R26, R30, 30_encoding.md R58, R59, R69). One request is one step (log 15). -/

namespace Sys2Proof.Machine

/-- The step. While nothing can be accepted (no request waits, or `busy` is 1) the block waits and nothing changes
(10_state.md R30, 70_reset_and_hazards.md R203; log 5). -/
def step (s : State) : Host.Outcome State Fault Refusal :=
  match accept s with
  | none => .next s
  | some (w, s') =>
    match decode w with
    | .instr i => exec i (startOperation s')
    | .illegalOp op => illegalRequest op s'

/-- The state with a table word offered first on the request port, and the port free, so that the next step accepts
exactly it (log 5). -/
def State.withFetchWord (s : State) (nbits w : Nat) : State :=
  offer (BitVec.ofNat 48 (w % 2 ^ nbits)) { s with busy := false }

end Sys2Proof.Machine
end

