-- ==== Sys2Proof/Machine/Clients.lean ====
section
/-! DEFINITION. The host-side clients of the block: the font blitter and the bitmap decoder (48_clients.md). They are
outside the block (00_scope.md R6 item 4) and reach it through WRBYTE and PIXEL requests only; their cursor is no state
of the block (10_state.md R32). What the model fixes for them beside the spec: log 12. -/

namespace Sys2Proof.Machine.Clients

/-- The errors that end a client procedure (48_clients.md R181, R187, R189, R192), and a block response that does
(R191). -/
inductive ClientError where
  /-- CERR_GLYPH (R181) -/
  | glyph
  /-- CERR_BMP_SIGNATURE (R187) -/
  | bmpSignature
  /-- CERR_BMP_FORMAT (R189) -/
  | bmpFormat
  /-- CERR_IO (R192) -/
  | io
  /-- an error response of the block -/
  | block (r : Response)
  /-- the block gave no response; no instruction of this block does that -/
  | noAnswer
deriving DecidableEq, Repr

/-- The character cursor (48_clients.md R180). -/
structure Cursor where
  row : Nat
  col : Nat
deriving DecidableEq, Repr

/-- The font client and the block it draws on (48_clients.md R180). -/
structure Session where
  block  : State
  cursor : Cursor
deriving DecidableEq, Repr

/-- The cursor when the client is created (48_clients.md R180; the spec's D32). -/
def Cursor.start : Cursor := { row := 0, col := 0 }

/-- One request made and answered: the block afterwards, and what the answer means to the client. -/
def issue (i : Instr) (s : State) : State × Option ClientError :=
  match exec i (startOperation s) with
  | .next t =>
    match t.trace.getLast? with
    | some (.response r) => (t, if r.status = 0 then none else some (.block r))
    | some (.busTx _ _ _) => (t, some .noAnswer)
    | some (.delay _) => (t, some .noAnswer)
    | some (.rstOut _) => (t, some .noAnswer)
    | none => (t, some .noAnswer)
  | .fault _ => (s, some .noAnswer)
  | .refused _ => (s, some .noAnswer)

/-- The rest of a client procedure: none of it after an error (48_clients.md, opening paragraph). -/
def proceed {σ : Type} (r : σ × Option ClientError) (rest : σ → σ × Option ClientError) : σ × Option ClientError :=
  match r with
  | (t, none) => rest t
  | (t, some e) => (t, some e)

/-- A client's loop: the body once for each element in order, up to the first that ends the procedure. -/
def loop {α σ : Type} (body : α → σ → σ × Option ClientError) : List α → σ → σ × Option ClientError
  | [], s => (s, none)
  | x :: rest, s => proceed (body x s) (loop body rest)

/-- Requests made one after another, up to the first that is not answered OK. -/
def issueAll (requests : List Instr) (s : State) : State × Option ClientError := loop issue requests s

/-! ## Font blitter -/

/-- The five glyph bytes of a codepoint, if the font has them (48_clients.md R181). -/
def glyph (font : List Byte) (codepoint : Nat) : Option (List Byte) :=
  if codepoint < 0x20 ∨ (codepoint - 0x20) * 5 + 4 ≥ font.length then none
  else some ((font.drop ((codepoint - 0x20) * 5)).take 5)

/-- `bp = COLUMNS * row + 6 * col + P` (48_clients.md R182). -/
def cellIndex (cur : Cursor) : Nat := Config.columns * cur.row + 6 * cur.col + Config.prefixCount

/-- WRBYTE requests for consecutive indices from `at0` on. -/
def byteRequests : Nat → List Byte → List Instr
  | _, [] => []
  | at0, v :: rest => .wrbyte (at0 : Int) v :: byteRequests (at0 + 1) rest

/-- The cursor after one character (48_clients.md R184). -/
def advance (c : Cfg) (cur : Cursor) : Cursor :=
  if cur.col + 1 > Config.columns / 6 - 1 then
    if cur.row + 1 > c.height.rows / 8 - 1 then { row := 0, col := 0 }
    else { row := cur.row + 1, col := 0 }
  else { row := cur.row, col := cur.col + 1 }

/-- `p_char(ch)`: the glyph's five bytes and one zero byte, then the cursor (48_clients.md R182). -/
def pChar (font : List Byte) (codepoint : Nat) (u : Session) : Session × Option ClientError :=
  match glyph font codepoint with
  | none => (u, some .glyph)
  | some g =>
    match issueAll (byteRequests (cellIndex u.cursor) (g ++ [0x00])) u.block with
    | (t, none) => ({ block := t, cursor := advance t.cfg u.cursor }, none)
    | (t, some e) => ({ u with block := t }, some e)

/-- `p_string(text)`, the text as its codepoints (48_clients.md R183). -/
def pString (font : List Byte) (text : List Nat) (u : Session) : Session × Option ClientError :=
  loop (pChar font) text u

/-! ## Bitmap decoder -/

/-- The two scoped resources of a decode (48_clients.md R192). -/
inductive Resource where
  | file
  | block
deriving DecidableEq, Repr

/-- What a decode does with its resources. -/
inductive Use where
  /-- a resource opened (48_clients.md R192) -/
  | opened (r : Resource)
  /-- one byte of the file read at an offset: it was read, or the read failed (48_clients.md R192) -/
  | read (offset : Nat) (answer : ReadAnswer)
  /-- one request to the block -/
  | requested (i : Instr)
  /-- a resource released (48_clients.md R192) -/
  | released (r : Resource)
deriving DecidableEq, Repr

/-- The bitmap client: the block it paints on, the file, the two handles, the platform's answers to its reads, and what
it has done with its resources (48_clients.md R192; log 18). -/
structure DecodeSession where
  block       : State
  /-- the file's bytes -/
  file        : List Byte
  /-- the file handle is open -/
  fileOpen    : Bool
  /-- the block is held -/
  blockOpen   : Bool
  /-- the coming read answers, as far as they are given -/
  readAnswers : List ReadAnswer
  /-- how many read answers have been free values -/
  readDraws   : Nat
  /-- what was done with the resources, oldest first -/
  uses        : List Use
deriving DecidableEq, Repr

/-- The bitmap client before its first decode. -/
def DecodeSession.ofFile (file : List Byte) (s : State) : DecodeSession :=
  { block := s, file := file, fileOpen := false, blockOpen := false, readAnswers := [], readDraws := 0, uses := [] }

/-- One more use of the resources. -/
def note (e : Use) (u : DecodeSession) : DecodeSession := { u with uses := u.uses ++ [e] }

/-- A resource is opened, or released. -/
def setOpen (r : Resource) (isOpen : Bool) (u : DecodeSession) : DecodeSession :=
  match r with
  | .file => { u with fileOpen := isOpen }
  | .block => { u with blockOpen := isOpen }

/-- Both resources opened: the file, then the block (48_clients.md R192; the order is log 18). -/
def acquire (u : DecodeSession) : DecodeSession :=
  note (.opened .block) (setOpen .block true (note (.opened .file) (setOpen .file true u)))

/-- Both resources released, the last opened first (48_clients.md R192; the order is log 18). -/
def release (u : DecodeSession) : DecodeSession :=
  note (.released .file) (setOpen .file false (note (.released .block) (setOpen .block false u)))

/-- The answer of the k-th read from here on, counted from 0: a given answer, or a free value (log 18). -/
def readAnswerAt (u : DecodeSession) (k : Nat) : ReadAnswer :=
  (u.readAnswers[k]?).getD (Config.freeReadAnswer (u.readDraws + (k - u.readAnswers.length)))

/-- The next read answer is used up. -/
def takeReadAnswer (u : DecodeSession) : DecodeSession :=
  match u.readAnswers with
  | [] => { u with readDraws := u.readDraws + 1 }
  | _ :: rest => { u with readAnswers := rest }

/-- What a read of the byte at offset `o` gives: it fails when the platform fails it, when the file has no such byte, or
when the file is not open (48_clients.md R192). -/
def readOutcome (o : Nat) (u : DecodeSession) : ReadAnswer :=
  if u.fileOpen ∧ o < u.file.length then readAnswerAt u 0 else .failed

/-- One byte of the file read; a failure ends the decode with CERR_IO (48_clients.md R192). -/
def readAt (o : Nat) (u : DecodeSession) : DecodeSession × Option ClientError :=
  (note (.read o (readOutcome o u)) (takeReadAnswer u),
    match readOutcome o u with
    | .done => none
    | .failed => some .io)

/-- One request to the block, which the decode holds. -/
def request (i : Instr) (u : DecodeSession) : DecodeSession × Option ClientError :=
  if u.blockOpen then (note (.requested i) { u with block := (issue i u.block).1 }, (issue i u.block).2)
  else (u, some .noAnswer)

/-- A little-endian field of `n` bytes at offset `o`; none where the file has no such byte (48_clients.md R188). -/
def leField (file : List Byte) (o : Nat) : Nat → Option Nat
  | 0 => some 0
  | n + 1 =>
    match file[o]?, leField file (o + 1) n with
    | some b, some high => some (b.toNat + 256 * high)
    | _, _ => none

/-- The header fields (48_clients.md R188). -/
structure BmpHeader where
  fileSize    : Nat
  dataOffset  : Nat
  width       : Nat
  height      : Nat
  planes      : Nat
  bpp         : Nat
  compression : Nat
  imageSize   : Nat
deriving DecidableEq, Repr

/-- The offset and the width of each header field that is read (48_clients.md R188; general knowledge in the spec, its
G8), in the order of the rule's table. -/
def headerLayout : List (Nat × Nat) := [(2, 4), (10, 4), (18, 4), (22, 4), (26, 2), (28, 2), (30, 4), (34, 4)]

/-- The offsets of the header bytes that are read, field by field (48_clients.md R188). -/
def headerOffsets : List Nat := headerLayout.flatMap fun field => List.range' field.1 field.2

/-- The header of a file, its fields at the offsets of `headerLayout` (48_clients.md R188). -/
def readHeader (file : List Byte) : Option BmpHeader := do
  let fileSize ← leField file 2 4
  let dataOffset ← leField file 10 4
  let width ← leField file 18 4
  let height ← leField file 22 4
  let planes ← leField file 26 2
  let bpp ← leField file 28 2
  let compression ← leField file 30 4
  let imageSize ← leField file 34 4
  pure { fileSize, dataOffset, width, height, planes, bpp, compression, imageSize }

/-- The row stride (48_clients.md R190). -/
def stride (bpp width : Nat) : Nat := (((bpp / 8) * width + 3) / 4) * 4

/-- The offset of the first byte of the pixel at column `x` of file row `r` (48_clients.md R190, R191). -/
def pixelOffset (h : BmpHeader) (r x : Nat) : Nat := h.dataOffset + r * stride h.bpp h.width + 3 * x

/-- What a file pixel whose first byte is `b` asks for: nothing for 0xFF, PIXEL for any other value (48_clients.md
R191). -/
def paintByte (b : Byte) (x y : Int) (u : DecodeSession) : DecodeSession × Option ClientError :=
  if b = 0xFF then (u, none) else request (.pixel x y 1) u

/-- The pixel at column `x` of file row `r`: its first byte read, then painted at `y = (height - 1) - r` (48_clients.md
R191). -/
def paintPixel (h : BmpHeader) (r x : Nat) (u : DecodeSession) : DecodeSession × Option ClientError :=
  proceed (readAt (pixelOffset h r x) u) fun t =>
    paintByte (t.file.getD (pixelOffset h r x) 0xFF) (x : Int) ((h.height : Int) - 1 - r) t

/-- File row `r`, its columns in ascending order (48_clients.md R191). -/
def paintRow (h : BmpHeader) (r : Nat) (u : DecodeSession) : DecodeSession × Option ClientError :=
  loop (paintPixel h r) (List.range h.width) u

/-- The file rows in file order (48_clients.md R191). -/
def paintRows (h : BmpHeader) (u : DecodeSession) : DecodeSession × Option ClientError :=
  loop (paintRow h) (List.range h.height) u

/-- The signature: its two bytes read, then compared (48_clients.md R187). -/
def checkSignature (magic : Byte × Byte) (u : DecodeSession) : DecodeSession × Option ClientError :=
  proceed (loop readAt [0, 1] u) fun t =>
    (t, if t.file[0]? = some magic.1 ∧ t.file[1]? = some magic.2 then none else some .bmpSignature)

/-- The picture: the header read, the depth checked, the rows painted (48_clients.md R188, R189, R191). -/
def decodePicture (u : DecodeSession) : DecodeSession × Option ClientError :=
  proceed (loop readAt headerOffsets u) fun t =>
    match readHeader t.file with
    | none => (t, some .io)
    | some h => if h.bpp = 24 then paintRows h t else (t, some .bmpFormat)

/-- `decode(file)`: the two resources opened, the signature and the picture, and both resources released however it ended
(48_clients.md R187 to R192). -/
def decodeBitmap (magic : Byte × Byte) (u : DecodeSession) : DecodeSession × Option ClientError :=
  let r := proceed (checkSignature magic (acquire u)) decodePicture
  (release r.1, r.2)

end Sys2Proof.Machine.Clients
end

