-- ==== Sys2Proof/Machine/Reset.lean ====
section
/-! DEFINITION. Construction, the block's one reset (70_reset_and_hazards.md R200 to R202). -/

/-- The height of a construction argument: 32 or 64, nothing else (10_state.md R18). -/
def Sys2Proof.Height.ofArgument (rows : Nat) : Option Sys2Proof.Height :=
  if rows = 32 then some .h32 else if rows = 64 then some .h64 else none

namespace Sys2Proof.Machine

/-- `construct(height, externalSupply, deviceAddress)` with the model parameters `HAS_RST`, `INIT_PARAMS` and
`T_POWER_MS`; another height, or an address above 127, is refused: no block exists (70_reset_and_hazards.md R200,
R201). -/
def State.construct (height : Nat) (externalSupply : Bool) (deviceAddress : Nat)
    (hasRst : Bool) (initParams : Height → Bool → InitParams) (tPowerMs : Nat) : Option State :=
  match Height.ofArgument height with
  | none => none
  | some h =>
    if deviceAddress ≤ 127 then
      some (State.ofCfg
        { height := h
          extSupply := externalSupply
          addr := BitVec.ofNat 7 deviceAddress
          hasRst := hasRst
          initParams := .ofFn initParams
          tPowerMs := tPowerMs })
    else none

end Sys2Proof.Machine
end

