-- ==== Sys2Proof/Safety.lean ====
section
/-! DEFINITION. The terms the statements use: the invariant of the machine, the platform's answers as premises, the state
after an operation's bus transactions, and runs. -/

namespace Sys2Proof.Safety

open Sys2Proof.Machine

/-- A transaction has one of the two shapes of 30_encoding.md R65, and goes to the device address: a control frame
`[0x80, b]`, or a data frame of FB_LEN bytes whose first is 0x40. -/
def wellFormedTx (c : Cfg) : Event → Prop
  | .busTx addr bytes _ =>
    addr = c.addr ∧ ((∃ b, bytes = [0x80, b]) ∨ (bytes.length = c.fbLen ∧ bytes.head? = some 0x40))
  | .delay _ => True
  | .rstOut _ => True
  | .response _ => True

/-- What holds of the block between requests. -/
structure Inv (s : State) : Prop where
  /-- the frame buffer is in its canonical form -/
  canonical : s.fb.wf = true
  /-- no index outside the buffer is listed (20_memory.md R38) -/
  inside    : s.fb.within s.cfg.fbLen = true
  /-- the marker is in place (20_memory.md R50) -/
  marker    : s.fb.read 0 = Config.dataMarker
  /-- the reset line has a level exactly when it exists (10_state.md R27) -/
  line      : s.rstOut.isSome = s.cfg.hasRst
  /-- no request is in flight (10_state.md R30) -/
  idle      : s.busy = false
  /-- `seq` counts at most 24 transactions (10_state.md R26) -/
  bounded   : s.seq ≤ 24
  /-- every transaction shown so far has one of the two frame shapes (30_encoding.md R65) -/
  shown     : ∀ e, e ∈ s.trace → wellFormedTx s.cfg e

/-- The platform ACKs the next `n` bus transactions. -/
def allAck (s : State) (n : Nat) : Prop := ∀ k, k < n → answerAt s k = .ack

/-- The platform ACKs the next `k` bus transactions and fails the one after. -/
def failsAt (s : State) (k : Nat) : Prop := allAck s k ∧ answerAt s k = .fail

/-- The ACKed control frames of a list of command bytes: `[0x80, b]` each, to the device address (30_encoding.md R62). -/
def ackedFrames (c : Cfg) (bytes : List Byte) : List Event :=
  bytes.map (fun b => .busTx c.addr [0x80, b] .ack)

/-- The control frames of a list of command bytes when the one at position `k` fails: those before it ACKed, it failed,
none after it (41_protocol.md R103). -/
def failedFrames (c : Cfg) (bytes : List Byte) (k : Nat) : List Event :=
  ackedFrames c (bytes.take k) ++ ((bytes.drop k).take 1).map (fun b => .busTx c.addr [0x80, b] .fail)

/-- The state after an operation that used `n` bus answers, left `seq` and `fsm` at the values given, and showed the
events given and then the response; nothing else differs from `s`. -/
def afterBus (s : State) (n : Nat) (seq : Nat) (fsm : Fsm) (events : List Event) (r : Response) : State :=
  { s with
    seq := seq
    fsm := fsm
    busy := false
    trace := s.trace ++ events ++ [.response r]
    answers := s.answers.drop n
    draws := s.draws + (n - s.answers.length) }

/-- The state after an operation that only answered. -/
def answered (s : State) (r : Response) : State :=
  { s with busy := false, trace := s.trace ++ [.response r] }

/-- The response `(0x00, none)`. -/
def okResponse : Response := { status := 0x00, info := .none }

/-- The response `(ERR_BUS, k)` (60_exceptions.md R156). -/
def busError (k : Nat) : Response := { status := 0x04, info := .acked k }

/-- The response `(ERR_PIXEL_RANGE, (x, y))` (60_exceptions.md R154). -/
def pixelError (x y : Int) : Response := { status := 0x02, info := .pixel x y }

/-- A pixel coordinate is in range, in numbers (20_memory.md R37). -/
abbrev onPanel (c : Cfg) (x y : Int) : Prop := 0 ≤ x ∧ x < 128 ∧ 0 ≤ y ∧ y < (c.height.rows : Int)

/-- The instructions of a list performed one after another. -/
def runAll : List Instr → State → Host.Outcome State Fault Refusal
  | [], s => .next s
  | i :: rest, s =>
    match exec i s with
    | .next t => runAll rest t
    | .fault f => .fault f
    | .refused r => .refused r

/-- A plain byte array under the writes of WRBYTE, SETPIX and PIXEL, as 40_buffer.md R85, R88 and R92 write them; an
out-of-range write changes nothing, and no other operation is one of these (40_buffer.md R93). -/
def arrayWrite (c : Cfg) (bytes : Nat → Byte) : Instr → Nat → Byte
  | .setpix x y v, a =>
    if onPanel c x y ∧ (a : Int) = 1 + x + y / 8 * 128 then
      (if v ≠ 0 then bytes a ||| ((1 : Byte) <<< (y % 8).toNat) else bytes a &&& ~~~((1 : Byte) <<< (y % 8).toNat))
    else bytes a
  | .pixel x y _, a =>
    if onPanel c x y ∧ (a : Int) = 1 + x + y / 8 * 128 then bytes a ||| ((1 : Byte) <<< (y % 8).toNat) else bytes a
  | .wrbyte i v, a => if 1 ≤ i ∧ i < (c.fbLen : Int) ∧ (a : Int) = i then v else bytes a
  | .clear, a => bytes a
  | .wrcmd _, a => bytes a
  | .display, a => bytes a
  | .poweron, a => bytes a
  | .initdisp, a => bytes a
  | .poweroff, a => bytes a
  | .contrast _, a => bytes a
  | .invert _, a => bytes a
  | .setcols _ _ _, a => bytes a
  | .setpages _ _ _, a => bytes a

/-- WRBYTE, SETPIX or PIXEL, the operations of 40_buffer.md R93. -/
def writesOneByte : Instr → Bool
  | .setpix _ _ _ => true
  | .pixel _ _ _ => true
  | .wrbyte _ _ => true
  | .clear => false
  | .wrcmd _ => false
  | .display => false
  | .poweron => false
  | .initdisp => false
  | .poweroff => false
  | .contrast _ => false
  | .invert _ => false
  | .setcols _ _ _ => false
  | .setpages _ _ _ => false

/-- The operations of 40_buffer.md: CLEAR, SETPIX, PIXEL, WRBYTE. -/
def isBufferOp : Instr → Bool
  | .clear => true
  | .setpix _ _ _ => true
  | .pixel _ _ _ => true
  | .wrbyte _ _ => true
  | .wrcmd _ => false
  | .display => false
  | .poweron => false
  | .initdisp => false
  | .poweroff => false
  | .contrast _ => false
  | .invert _ => false
  | .setcols _ _ _ => false
  | .setpages _ _ _ => false

/-- The operation codes of 30_encoding.md R59, which name no operation. -/
abbrev illegalOpcode (op : Nat) : Prop :=
  op = 0x00 ∨ (0x05 ≤ op ∧ op ≤ 0x0F) ∨ (0x12 ≤ op ∧ op ≤ 0x1F) ∨ (0x25 ≤ op ∧ op ≤ 0x2F) ∨ (0x32 ≤ op ∧ op ≤ 0xFF)

/-- The cursor is on a cell of the panel (48_clients.md R180). -/
def cursorOnPanel (c : Cfg) (cur : Clients.Cursor) : Prop := cur.col ≤ 20 ∧ cur.row < c.pages

/-- The event is a bus transaction that failed. -/
def isFailedTx : Event → Bool
  | .busTx _ _ .fail => true
  | .busTx _ _ .ack => false
  | .delay _ => false
  | .rstOut _ => false
  | .response _ => false

/-- The event is a bus transaction that was ACKed. -/
def isAckedTx : Event → Bool
  | .busTx _ _ .ack => true
  | .busTx _ _ .fail => false
  | .delay _ => false
  | .rstOut _ => false
  | .response _ => false

/-- The event is a response. -/
def isResponse : Event → Bool
  | .response _ => true
  | .busTx _ _ _ => false
  | .delay _ => false
  | .rstOut _ => false

/-- The pixel of the frame buffer is set: its bit at the place of 20_memory.md R40. -/
def pixelOn (s : State) (x y : Int) : Bool := (s.fb.read (pixMap x y).1).getLsbD (y % 8).toNat

/-- The platform answers the next `n` reads of the bitmap file. -/
def readsDone (u : Clients.DecodeSession) (n : Nat) : Prop := ∀ k, k < n → Clients.readAnswerAt u k = .done

/-- How many bytes of a bitmap a decode reads: the signature's, the header's, and one for each pixel (48_clients.md R187,
R188, R191). -/
def readsOf (h : Clients.BmpHeader) : Nat := 2 + Clients.headerOffsets.length + h.width * h.height

/-- The file has the two bytes of the signature (48_clients.md R187). -/
def hasSignature (magic : Byte × Byte) (file : List Byte) : Prop :=
  file[0]? = some magic.1 ∧ file[1]? = some magic.2

/-- A use of the resources between their opening and their release: a read or a request. -/
def isInnerUse : Clients.Use → Bool
  | .read _ _ => true
  | .requested _ => true
  | .opened _ => false
  | .released _ => false

/-- A read of the file that failed. -/
def isFailedRead : Clients.Use → Bool
  | .read _ .failed => true
  | .read _ .done => false
  | .requested _ => false
  | .opened _ => false
  | .released _ => false

end Sys2Proof.Safety
end

