-- ==== Sys2Proof/Certificates/Slice0/Obligations.lean ====
section
/-! DEFINITION. The statements for the provers, from the numbered rules of spec/. Each docstring names the rules it
formalises; what a statement rests on that is the model's own choice is said there with the log entry. -/

open Sys2Proof Sys2Proof.Machine Sys2Proof.Safety

/-! ## Encoding and the request port -/

/-- Decoding the word of a well-formed instruction gives the instruction back, with every operand (30_encoding.md R56,
R57, R58, R71). -/
def Obligations.DecodeInvertsEncode : Prop :=
  ∀ i : Instr, i.wellFormed = true → decode (encode i) = .instr i

/-- Whatever a word decodes to has operands that the word can carry (30_encoding.md R57). -/
def Obligations.DecodedInstrIsWellFormed : Prop :=
  ∀ (w : Request) (i : Instr), decode w = .instr i → i.wellFormed = true

/-- The assembler's word is `(OP << 40) | ((a mod 65536) << 24) | ((b mod 65536) << 8) | c`, operands out of range are
refused, and an instruction's word is the assembler's with its omitted operands 0 (30_encoding.md R71). -/
def Obligations.AssemblerWordFormula : Prop :=
  (∀ (op : Byte) (a b c : Int),
      -32768 ≤ a → a ≤ 32767 → -32768 ≤ b → b ≤ 32767 → 0 ≤ c → c ≤ 255 →
      ∃ w, assemble op a b c = some w ∧
        w.toNat = op.toNat * 2 ^ 40 + (a % 65536).toNat * 2 ^ 24 + (b % 65536).toNat * 2 ^ 8 + c.toNat) ∧
  (∀ (op : Byte) (a b c : Int),
      a < -32768 ∨ 32767 < a ∨ b < -32768 ∨ 32767 < b ∨ c < 0 ∨ 255 < c → assemble op a b c = none) ∧
  (∀ i : Instr, i.wellFormed = true →
      assemble i.opcode i.operands.1 i.operands.2.1 (i.operands.2.2.toNat : Int) = some (encode i))

/-- An OP that names no operation: the request is answered `(ERR_ILLEGAL_OP, OP)` and nothing else of the block changes;
every other OP decodes to the operation with that code (30_encoding.md R59; 60_exceptions.md R155). -/
def Obligations.IllegalOpAnswersOnly : Prop :=
  (∀ (s : State) (w : Request) (rest : List Request), s.busy = false → s.requests = w :: rest →
      illegalOpcode w.opField.toNat →
      step s = .next { s with
        requests := rest
        trace := s.trace ++ [.response { status := 0x01, info := .op w.opField }] }) ∧
  (∀ w : Request, ¬ illegalOpcode w.opField.toNat → ∃ i, decode w = .instr i ∧ i.opcode = w.opField)

/-- Fields an operation does not use have no effect; of `C`, SETCOLS and SETPAGES use `c[0]` alone, and SETPIX and
INVERT whether it is 0 (30_encoding.md R60). -/
def Obligations.UnusedFieldsHaveNoEffect : Prop :=
  (∀ (op : Byte) (a b a' b' : Int) (c c' : Byte),
      op = 0x01 ∨ op = 0x11 ∨ op = 0x20 ∨ op = 0x21 ∨ op = 0x22 →
      decode (packRequest op a b c) = decode (packRequest op a' b' c')) ∧
  (∀ (a b b' : Int) (c : Byte), decode (packRequest 0x04 a b c) = decode (packRequest 0x04 a b' c)) ∧
  (∀ (op : Byte) (a b a' b' : Int) (c : Byte), op = 0x10 ∨ op = 0x23 ∨ op = 0x24 →
      decode (packRequest op a b c) = decode (packRequest op a' b' c)) ∧
  (∀ (x y : Int) (c c' : Byte) (s : State), exec (.pixel x y c) s = exec (.pixel x y c') s) ∧
  (∀ (start stop stop' : Int) (c c' : Byte) (s : State), c.getLsbD 0 = c'.getLsbD 0 →
      c.getLsbD 0 = true ∨ stop = stop' →
      exec (.setcols start stop c) s = exec (.setcols start stop' c') s ∧
      exec (.setpages start stop c) s = exec (.setpages start stop' c') s) ∧
  (∀ (x y : Int) (c : Byte) (s : State), c ≠ 0 →
      exec (.setpix x y c) s = exec (.setpix x y 1) s ∧ exec (.invert c) s = exec (.invert 1) s)

/-- The words of 30_encoding.md R71's examples decode to what they stand for. -/
def Obligations.ExampleWordsDecode : Prop :=
  decode 0x02000A001401 = .instr (.setpix 10 20 1) ∧
  decode 0x03FFFF000000 = .instr (.pixel (-1) 0 0) ∧
  decode 0x1000000000AF = .instr (.wrcmd 0xAF) ∧
  decode 0x300005000300 = .instr (.setcols 5 3 0) ∧
  decode 0x050000000000 = .illegalOp 0x05

/-- A step accepts the first waiting word, with `busy` 1 from then on, and performs the instruction it decodes to, which
begins with `seq` 0 (10_state.md R26, R30, 30_encoding.md R58). -/
def Obligations.StepPerformsDecodedRequest : Prop :=
  ∀ (s : State) (w : Request) (rest : List Request) (i : Instr),
    s.busy = false → s.requests = w :: rest → decode w = .instr i →
    step s = exec i { s with requests := rest, busy := true, seq := 0 }

/-- The word of a well-formed instruction, placed where the next step accepts its request, is performed by that step
(the placing is the model's own, log 5). -/
def Obligations.PlacedWordIsPerformed : Prop :=
  ∀ (s : State) (i : Instr), i.wellFormed = true →
    step (s.withFetchWord 48 (encode i).toNat) = exec i { s with busy := true, seq := 0 }

/-- `busy`: 1 from the acceptance of a request until its response, else 0; while it is 1 no request is accepted; 0 at
reset (10_state.md R30). -/
def Obligations.BusyHandshake : Prop :=
  (∀ s : State, s.busy = true → accept s = none) ∧
  (∀ (s : State) (w : Request) (rest : List Request), s.busy = false → s.requests = w :: rest →
      accept s = some (w, { s with requests := rest, busy := true })) ∧
  (∀ (i : Instr) (s : State), ∃ t, exec i s = .next t ∧ t.busy = false) ∧
  (∀ (op : Byte) (s : State), ∃ t, illegalRequest op s = .next t ∧ t.busy = false) ∧
  (∀ c : Cfg, (State.ofCfg c).busy = false)

/-- A step that can accept nothing waits: it answers a next state and changes nothing (the model's choice, log 5). -/
def Obligations.WaitingChangesNothing : Prop :=
  ∀ s : State, s.busy = true ∨ s.requests = [] → accept s = none ∧ step s = .next s

/-! ## Reset -/

/-- Construction sets the configuration to its arguments and every other piece of state to its reset value, and emits
nothing (70_reset_and_hazards.md R200, 10_state.md R35). The level of the reset line before the first POWERON is a draw:
nothing is said of it. -/
def Obligations.ConstructionGivesResetValues : Prop :=
  ∀ (height : Nat) (ext : Bool) (addr : Nat) (hasRst : Bool) (ip : Height → Bool → InitParams) (tp : Nat),
    height = 32 ∨ height = 64 → addr ≤ 127 →
    ∃ s, State.construct height ext addr hasRst ip tp = some s ∧
      s.cfg.height.rows = height ∧ s.cfg.extSupply = ext ∧ s.cfg.addr.toNat = addr ∧ s.cfg.hasRst = hasRst ∧
      (∀ h e, s.cfg.initParams.get h e = ip h e) ∧ s.cfg.tPowerMs = tp ∧
      s.cfg.pages = height / 8 ∧ s.cfg.fbLen = 1 + height / 8 * 128 ∧
      s.fb.read 0 = 0x40 ∧ (∀ i, 1 ≤ i → i < s.cfg.fbLen → s.fb.read i = 0x00) ∧
      s.fsm = .off ∧ s.seq = 0 ∧ s.busy = false ∧ s.rstOut.isSome = hasRst ∧ s.trace = []

/-- A construction with another height, or an address above 127, is refused (70_reset_and_hazards.md R201). -/
def Obligations.ConstructionRefusesBadArguments : Prop :=
  ∀ (height : Nat) (ext : Bool) (addr : Nat) (hasRst : Bool) (ip : Height → Bool → InitParams) (tp : Nat),
    State.construct height ext addr hasRst ip tp = none ↔ ¬ (height = 32 ∨ height = 64) ∨ 127 < addr

/-- No step changes the configuration (00_scope.md R9). -/
def Obligations.ConfigurationNeverChanges : Prop :=
  (∀ s t : State, step s = .next t → t.cfg = s.cfg) ∧
  (∀ (i : Instr) (s t : State), exec i s = .next t → t.cfg = s.cfg)

/-- Every waiting request is served: as many steps as there are requests empty the port, each request is answered by one
response, and no step faults or is refused (10_state.md R25, 30_encoding.md R69, 60_exceptions.md R150, R164). -/
def Obligations.AllRequestsServed : Prop :=
  ∀ s : State, s.busy = false →
    ∃ t, Host.Core.run core s.requests.length s = .next t ∧ t.requests = [] ∧ t.busy = false ∧
      (t.trace.filter isResponse).length = (s.trace.filter isResponse).length + s.requests.length

/-! ## The frame buffer and the mapper -/

/-- Two frame buffers in canonical form that read the same at every index are the same data (the form is the model's,
log 8). -/
def Obligations.CanonicalBuffersAreEqual : Prop :=
  ∀ m n : Memory, m.wf = true → n.wf = true → (∀ i, m.read i = n.read i) → m = n

/-- CLEAR leaves what the loop of 40_buffer.md R84 leaves: every index set to 0x00 one after another, then the marker
written. -/
def Obligations.ClearIsItsLoop : Prop :=
  ∀ s : State, s.fb.wf = true →
    exec .clear s = .next (answered { s with fb := s.fb.clearLoop s.cfg.fbLen } okResponse)

/-- `MAP` is a bijection from the in-range coordinates onto the pairs of a pixel-area index and a bit; none maps to
index 0 (20_memory.md R42). -/
def Obligations.PixelMapIsBijection : Prop :=
  ∀ c : Cfg,
    (∀ x y, onPanel c x y → 1 ≤ (pixMap x y).1 ∧ (pixMap x y).1 < c.fbLen ∧
      ∃ n, n < 8 ∧ (pixMap x y).2 = (1 : Byte) <<< n) ∧
    (∀ x y x' y', onPanel c x y → onPanel c x' y' → pixMap x y = pixMap x' y' → x = x' ∧ y = y') ∧
    (∀ i n : Nat, 1 ≤ i → i < c.fbLen → n < 8 → ∃ x y, onPanel c x y ∧ pixMap x y = (i, (1 : Byte) <<< n)) ∧
    (c.fbLen - 1) * 8 = 128 * c.height.rows

/-- The inverse of the mapper: index `i`, bit `n` is the pixel `x = (i - P) mod COLUMNS`,
`y = 8 * ((i - P) div COLUMNS) + n` (20_memory.md R41). -/
def Obligations.PixelMapInverse : Prop :=
  ∀ (c : Cfg) (i n : Nat), 1 ≤ i → i < c.fbLen → n < 8 →
    onPanel c (((i - 1) % 128 : Nat) : Int) ((8 * ((i - 1) / 128) + n : Nat) : Int) ∧
    pixMap (((i - 1) % 128 : Nat) : Int) ((8 * ((i - 1) / 128) + n : Nat) : Int) = (i, (1 : Byte) <<< n)

/-- CLEAR completes from every state: index 0 reads 0x40, every other byte of the buffer 0x00, and nothing else changes
but the response shown (40_buffer.md R84). -/
def Obligations.ClearZeroesBuffer : Prop :=
  ∀ s : State, ∃ t, exec .clear s = .next t ∧
    t.fb.read 0 = 0x40 ∧ (∀ i, 1 ≤ i → i < s.cfg.fbLen → t.fb.read i = 0x00) ∧
    (∀ i, s.cfg.fbLen ≤ i → t.fb.read i = s.fb.read i) ∧
    t = answered { s with fb := t.fb } okResponse

/-- SETPIX: in range, the byte `P + x + (y div 8) * COLUMNS` has bit `y mod 8` set or cleared and every other byte and
all else is unchanged; out of range it answers ERR_PIXEL_RANGE and changes nothing (40_buffer.md R85). -/
def Obligations.SetpixWritesItsByte : Prop :=
  ∀ (s : State) (x y : Int) (c : Byte), s.fb.wf = true →
    (onPanel s.cfg x y →
      ∃ t, exec (.setpix x y c) s = .next t ∧
        (∀ a : Nat, t.fb.read a =
          if (a : Int) = 1 + x + y / 8 * 128 then
            (if c ≠ 0 then s.fb.read a ||| ((1 : Byte) <<< (y % 8).toNat)
             else s.fb.read a &&& ~~~((1 : Byte) <<< (y % 8).toNat))
          else s.fb.read a) ∧
        t = answered { s with fb := t.fb } okResponse) ∧
    (¬ onPanel s.cfg x y → exec (.setpix x y c) s = .next (answered s (pixelError x y)))

/-- SETPIX touches one bit: every other byte, and every other bit of its byte, is as before (40_buffer.md R86). -/
def Obligations.SetpixTouchesOneBit : Prop :=
  ∀ (s : State) (x y : Int) (c : Byte), s.fb.wf = true → onPanel s.cfg x y →
    ∃ t, exec (.setpix x y c) s = .next t ∧
      (∀ a, a ≠ (pixMap x y).1 → t.fb.read a = s.fb.read a) ∧
      (∀ n, n ≠ (y % 8).toNat →
        (t.fb.read (pixMap x y).1).getLsbD n = (s.fb.read (pixMap x y).1).getLsbD n) ∧
      (t.fb.read (pixMap x y).1).getLsbD (y % 8).toNat = decide (c ≠ 0)

/-- SETPIX set, then clear: the containing byte is restored exactly when the pixel's bit was 0 before; when it was 1 the
byte differs in that bit alone, which is left 0 (40_buffer.md R87). -/
def Obligations.SetpixPairRestoresWhenClear : Prop :=
  ∀ (s : State) (x y : Int), s.fb.wf = true → onPanel s.cfg x y →
    ∃ t u, exec (.setpix x y 1) s = .next t ∧ exec (.setpix x y 0) t = .next u ∧
      (u.fb.read (pixMap x y).1 = s.fb.read (pixMap x y).1 ↔
        (s.fb.read (pixMap x y).1).getLsbD (y % 8).toNat = false) ∧
      (u.fb.read (pixMap x y).1).getLsbD (y % 8).toNat = false ∧
      (∀ n, n ≠ (y % 8).toNat →
        (u.fb.read (pixMap x y).1).getLsbD n = (s.fb.read (pixMap x y).1).getLsbD n)

/-- PIXEL: in range, the byte `P + x + (y div 8) * COLUMNS` has bit `y mod 8` set, whatever the fill operand, and every
other byte and all else is unchanged; out of range it answers ERR_PIXEL_RANGE and changes nothing (40_buffer.md R88). -/
def Obligations.PixelSetsItsByte : Prop :=
  ∀ (s : State) (x y : Int) (c : Byte), s.fb.wf = true →
    (onPanel s.cfg x y →
      ∃ t, exec (.pixel x y c) s = .next t ∧
        (∀ a : Nat, t.fb.read a =
          if (a : Int) = 1 + x + y / 8 * 128 then s.fb.read a ||| ((1 : Byte) <<< (y % 8).toNat)
          else s.fb.read a) ∧
        t = answered { s with fb := t.fb } okResponse) ∧
    (¬ onPanel s.cfg x y → exec (.pixel x y c) s = .next (answered s (pixelError x y)))

/-- PIXEL never clears a bit, its own included, and two PIXEL with the same coordinates leave the buffer one leaves
(40_buffer.md R89). -/
def Obligations.PixelOnlySetsAndIsIdempotent : Prop :=
  ∀ (s : State) (x y : Int) (c c' : Byte), s.fb.wf = true → onPanel s.cfg x y →
    ∃ t u, exec (.pixel x y c) s = .next t ∧ exec (.pixel x y c') t = .next u ∧ u.fb = t.fb ∧
      ∀ a n, (s.fb.read a).getLsbD n = true → (t.fb.read a).getLsbD n = true

/-- SETPIX and PIXEL refuse a coordinate out of range with ERR_PIXEL_RANGE and write nothing, even where the index
formula would give a byte of the buffer (60_exceptions.md R154, 40_buffer.md R83). -/
def Obligations.OutOfRangePixelsWriteNothing : Prop :=
  ∀ (s : State) (x y : Int) (c : Byte),
    x < 0 ∨ 128 ≤ x ∨ y < 0 ∨ (s.cfg.height.rows : Int) ≤ y →
    exec (.setpix x y c) s = .next (answered s { status := 0x02, info := .pixel x y }) ∧
    exec (.pixel x y c) s = .next (answered s { status := 0x02, info := .pixel x y })

/-- PIXEL x, y, f has the effect and the response of SETPIX x, y, 1, for every f, and the reserved code 0x05 of TOGGLE
names no operation (40_buffer.md R90, 30_encoding.md R61). -/
def Obligations.PixelAgreesWithSetpix : Prop :=
  (∀ (x y : Int) (f : Byte) (s : State), exec (.pixel x y f) s = exec (.setpix x y 1) s) ∧
  (∀ w : Request, w.opField = 0x05 → decode w = .illegalOp 0x05)

/-- WRBYTE: an index of the pixel area gets the byte, every other byte and all else is unchanged; any other index, the
marker's among them, is answered ERR_BYTE_RANGE and changes nothing (40_buffer.md R91, R92; 60_exceptions.md R157). -/
def Obligations.WrbyteWritesItsByte : Prop :=
  ∀ (s : State) (i : Int) (v : Byte), s.fb.wf = true →
    (1 ≤ i → i < (s.cfg.fbLen : Int) →
      ∃ t, exec (.wrbyte i v) s = .next t ∧
        (∀ a : Nat, t.fb.read a = if (a : Int) = i then v else s.fb.read a) ∧
        t = answered { s with fb := t.fb } okResponse) ∧
    (i < 1 ∨ (s.cfg.fbLen : Int) ≤ i →
      exec (.wrbyte i v) s = .next (answered s { status := 0x03, info := .index i }))

/-- CLEAR, SETPIX, PIXEL and WRBYTE write the frame buffer only (no transaction, delay or level, no other register, no
ERR_BUS) and read it and the configuration only; one that answers an error leaves the buffer as it was (40_buffer.md
R81). -/
def Obligations.BufferOperationsTouchOnlyBuffer : Prop :=
  ∀ (i : Instr) (s : State), isBufferOp i = true →
    ∃ t r, exec i s = .next t ∧ t = answered { s with fb := t.fb } r ∧ r.status ≠ 0x04 ∧
      (r.status ≠ 0x00 → t.fb = s.fb) ∧
      ∀ s' : State, s'.fb = s.fb → s'.cfg = s.cfg → exec i s' = .next (answered { s' with fb := t.fb } r)

/-- A sequence of WRBYTE, SETPIX and PIXEL leaves the frame buffer that the same writes leave in a byte array
(40_buffer.md R93). -/
def Obligations.BufferWritesActAsArray : Prop :=
  ∀ (is : List Instr) (s : State), s.fb.wf = true → (∀ i, i ∈ is → writesOneByte i = true) →
    ∃ t, runAll is s = .next t ∧ t.fb.wf = true ∧
      ∀ a, t.fb.read a = is.foldl (arrayWrite s.cfg) s.fb.read a

/-! ## The framer -/

/-- WRCMD: one control frame with the byte, whatever it is; ACKed it answers OK, failed it answers (ERR_BUS, 0)
(41_protocol.md R100). -/
def Obligations.WrcmdSendsOneFrame : Prop :=
  ∀ (s : State) (c : Byte),
    (allAck s 1 → exec (.wrcmd c) s =
      .next (afterBus s 1 1 s.fsm [.busTx s.cfg.addr [0x80, c] .ack] okResponse)) ∧
    (failsAt s 0 → exec (.wrcmd c) s =
      .next (afterBus s 1 0 s.fsm [.busTx s.cfg.addr [0x80, c] .fail] (busError 0)))

/-- DISPLAY: the column window, the page window, then the whole buffer in ascending order, marker first; at a first FAIL
it ends with ERR_BUS and the count of ACKed transactions (41_protocol.md R104). -/
def Obligations.DisplaySendsWindowAndBuffer : Prop :=
  ∀ s : State,
    let window : List Byte := [0x21, 0, 127, 0x22, 0, BitVec.ofNat 8 (s.cfg.height.rows / 8 - 1)]
    let buffer : List Byte := (List.range s.cfg.fbLen).map s.fb.read
    (allAck s 7 → exec .display s =
      .next (afterBus s 7 7 s.fsm
        (ackedFrames s.cfg window ++ [.busTx s.cfg.addr buffer .ack]) okResponse)) ∧
    (∀ k, k < 6 → failsAt s k → exec .display s =
      .next (afterBus s (k + 1) k s.fsm (failedFrames s.cfg window k) (busError k))) ∧
    (failsAt s 6 → exec .display s =
      .next (afterBus s 7 6 s.fsm
        (ackedFrames s.cfg window ++ [.busTx s.cfg.addr buffer .fail]) (busError 6)))

/-- The six control frames of DISPLAY are those of SETCOLS 0, COLUMNS-1 and then SETPAGES 0, PAGES-1 (41_protocol.md
R106). -/
def Obligations.DisplayWindowIsTheSetters : Prop :=
  ∀ s : State, allAck s 7 →
    ∃ tc tp td columns pages buffer,
      exec (.setcols 0 127 0) s = .next tc ∧
      exec (.setpages 0 ((s.cfg.height.rows : Int) / 8 - 1) 0) tc = .next tp ∧
      exec .display s = .next td ∧
      tc.trace = s.trace ++ columns ++ [.response okResponse] ∧
      tp.trace = tc.trace ++ pages ++ [.response okResponse] ∧
      td.trace = s.trace ++ columns ++ pages ++ [buffer, .response okResponse] ∧
      columns.length = 3 ∧ pages.length = 3

/-- When a transaction of any operation returns FAIL it is the operation's last: what was shown before it stays, nothing
is sent or shown after it but the response `(ERR_BUS, k)`, `k` the operation's ACKed transactions; and ERR_BUS is
answered in no other case (41_protocol.md R103). -/
def Obligations.BusFailureEndsOperation : Prop :=
  ∀ (i : Instr) (s : State),
    ∃ t events r, exec i s = .next t ∧ t.trace = s.trace ++ events ++ [.response r] ∧
      ((events.all (fun e => !isFailedTx e) = true ∧ r.status ≠ 0x04) ∨
        ∃ before bytes, events = before ++ [.busTx s.cfg.addr bytes .fail] ∧
          before.all (fun e => !isFailedTx e) = true ∧
          r = { status := 0x04, info := .acked (before.filter isAckedTx).length })

/-- Every transaction an operation emits is a control frame `[0x80, b]` or a data frame of FB_LEN bytes that starts with
0x40, and goes to the device address (30_encoding.md R65), from a state with the marker in place. -/
def Obligations.OnlyTwoFrameShapes : Prop :=
  ∀ (i : Instr) (s t : State), s.fb.read 0 = 0x40 → exec i s = .next t →
    ∃ events, t.trace = s.trace ++ events ∧ ∀ e, e ∈ events → wellFormedTx s.cfg e

/-! ## The initialization sequence -/

/-- The transition table of `fsm`, complete (42_init_sequence.md R121). -/
def Obligations.FsmFollowsTransitionTable : Prop :=
  (∀ c : Cfg, (State.ofCfg c).fsm = .off) ∧
  (∀ (op : Byte) (s : State), ∃ t, illegalRequest op s = .next t ∧ t.fsm = s.fsm) ∧
  (∀ (i : Instr) (s : State), ∃ t, exec i s = .next t ∧
    match i with
    | .poweron => t.fsm = .poweringOn
    | .initdisp =>
        (allAck s 24 → t.fsm = .active) ∧ (failsAt s 23 → t.fsm = .initialized) ∧
        (∀ k, k ≤ 22 → failsAt s k → t.fsm = s.fsm)
    | .poweroff => (allAck s 1 → t.fsm = .off) ∧ (failsAt s 0 → t.fsm = s.fsm)
    | .invert c =>
        (s.fsm = .active ∨ s.fsm = .inverted →
          allAck s 1 → t.fsm = if c ≠ 0 then .inverted else .active) ∧
        (s.fsm = .active ∨ s.fsm = .inverted → failsAt s 0 → t.fsm = s.fsm) ∧
        (s.fsm = .off ∨ s.fsm = .poweringOn ∨ s.fsm = .initialized → t.fsm = s.fsm)
    | .wrcmd _ => t.fsm = s.fsm
    | .display => t.fsm = s.fsm
    | .contrast _ => t.fsm = s.fsm
    | .setcols _ _ _ => t.fsm = s.fsm
    | .setpages _ _ _ => t.fsm = s.fsm
    | .clear => t.fsm = s.fsm
    | .setpix _ _ _ => t.fsm = s.fsm
    | .pixel _ _ _ => t.fsm = s.fsm
    | .wrbyte _ _ => t.fsm = s.fsm)

/-- `fsm` gates nothing: from any other `fsm` an operation does the same, `fsm` itself apart (10_state.md R25). -/
def Obligations.FsmGatesNothing : Prop :=
  ∀ (i : Instr) (s : State) (f : Fsm),
    ∃ t f', exec i s = .next t ∧ exec i { s with fsm := f } = .next { t with fsm := f' }

/-- POWERON: the power delay, or the reset pulse where the line exists; `fsm` is POWERING_ON and no transaction is sent
(42_init_sequence.md R122). -/
def Obligations.PoweronDelaysOrPulses : Prop :=
  ∀ s : State,
    (s.cfg.hasRst = false → exec .poweron s =
      .next { s with
        fsm := .poweringOn
        seq := 0
        busy := false
        trace := s.trace ++ [.delay s.cfg.tPowerMs, .response okResponse] }) ∧
    (s.cfg.hasRst = true → exec .poweron s =
      .next { s with
        fsm := .poweringOn
        seq := 0
        busy := false
        rstOut := some .high
        trace := s.trace ++
          [.rstOut .high, .delay 10, .rstOut .low, .delay 1, .rstOut .high, .delay 10, .response okResponse] })

/-- INITDISP: the 24 bytes of the list in order, one control frame each, the configuration bytes those of
`INIT_PARAMS(H, EXT_SUPPLY)`; `fsm` is ACTIVE after all, INITIALIZED when only display-on fails, unchanged at an earlier
FAIL (42_init_sequence.md R127; which bytes are frames of their own is the rule's table, log 11). -/
def Obligations.InitdispSendsList : Prop :=
  ∀ s : State,
    let p := s.cfg.initParams.get s.cfg.height s.cfg.extSupply
    let list : List Byte :=
      [0xAE, 0xD5, p.clkdiv, 0xA8, p.mux, 0xD3, 0x00, p.startline, 0x8D, p.chargepump, 0x20, p.addrmode,
       0xA0, 0xC0, 0xDA, p.compins, 0x81, p.contrast0, 0xD9, p.precharge, 0xA4, 0xA6, 0x2E, 0xAF]
    (allAck s 24 → exec .initdisp s = .next (afterBus s 24 24 .active (ackedFrames s.cfg list) okResponse)) ∧
    (failsAt s 23 → exec .initdisp s =
      .next (afterBus s 24 23 .initialized (failedFrames s.cfg list 23) (busError 23))) ∧
    (∀ k, k ≤ 22 → failsAt s k → exec .initdisp s =
      .next (afterBus s (k + 1) k s.fsm (failedFrames s.cfg list k) (busError k)))

/-- POWEROFF: display-off; ACKed, `fsm` is OFF, failed, `fsm` is unchanged (42_init_sequence.md R130). -/
def Obligations.PoweroffSendsDisplayOff : Prop :=
  ∀ s : State,
    (allAck s 1 → exec .poweroff s =
      .next (afterBus s 1 1 .off [.busTx s.cfg.addr [0x80, 0xAE] .ack] okResponse)) ∧
    (failsAt s 0 → exec .poweroff s =
      .next (afterBus s 1 0 s.fsm [.busTx s.cfg.addr [0x80, 0xAE] .fail] (busError 0)))

/-- CONTRAST: set-contrast, then the value, every value 0..255 unchanged (42_init_sequence.md R132). -/
def Obligations.ContrastSendsRegisterAndValue : Prop :=
  ∀ (s : State) (c : Byte),
    (allAck s 2 → exec (.contrast c) s =
      .next (afterBus s 2 2 s.fsm (ackedFrames s.cfg [0x81, c]) okResponse)) ∧
    (failsAt s 0 → exec (.contrast c) s =
      .next (afterBus s 1 0 s.fsm [.busTx s.cfg.addr [0x80, 0x81] .fail] (busError 0))) ∧
    (failsAt s 1 → exec (.contrast c) s =
      .next (afterBus s 2 1 s.fsm
        [.busTx s.cfg.addr [0x80, 0x81] .ack, .busTx s.cfg.addr [0x80, c] .fail] (busError 1)))

/-- INVERT: 0xA7 for a nonzero flag, 0xA6 for 0; ACKed it moves `fsm` between ACTIVE and INVERTED only
(42_init_sequence.md R133). -/
def Obligations.InvertSelectsPolarity : Prop :=
  ∀ (s : State) (c : Byte),
    let byte : Byte := if c ≠ 0 then 0xA7 else 0xA6
    let moved : Fsm :=
      if s.fsm = .active ∨ s.fsm = .inverted then (if c ≠ 0 then .inverted else .active) else s.fsm
    (allAck s 1 → exec (.invert c) s =
      .next (afterBus s 1 1 moved [.busTx s.cfg.addr [0x80, byte] .ack] okResponse)) ∧
    (failsAt s 0 → exec (.invert c) s =
      .next (afterBus s 1 0 s.fsm [.busTx s.cfg.addr [0x80, byte] .fail] (busError 0)))

/-! ## The window setters -/

/-- SETCOLS: the start test, then the end test, each error before any transaction and with its valid range; then the
column command and the two bounds (43_window.md R140). -/
def Obligations.SetcolsSendsWindow : Prop :=
  ∀ (s : State) (start stop : Int) (c : Byte),
    let last : Int := if c.getLsbD 0 then 127 else stop
    let bytes : List Byte := [0x21, BitVec.ofInt 8 start, BitVec.ofInt 8 last]
    (¬ (0 ≤ start ∧ start ≤ 127) → exec (.setcols start stop c) s =
      .next (answered { s with seq := 0 } { status := 0x10, info := .window .col .start start 0 127 })) ∧
    (0 ≤ start ∧ start ≤ 127 → ¬ (start ≤ last ∧ last ≤ 127) → exec (.setcols start stop c) s =
      .next (answered { s with seq := 0 } { status := 0x11, info := .window .col .stop last start 127 })) ∧
    (0 ≤ start ∧ start ≤ 127 → start ≤ last ∧ last ≤ 127 → allAck s 3 → exec (.setcols start stop c) s =
      .next (afterBus s 3 3 s.fsm (ackedFrames s.cfg bytes) okResponse)) ∧
    (0 ≤ start ∧ start ≤ 127 → start ≤ last ∧ last ≤ 127 → ∀ k, k < 3 → failsAt s k →
      exec (.setcols start stop c) s =
        .next (afterBus s (k + 1) k s.fsm (failedFrames s.cfg bytes k) (busError k)))

/-- SETPAGES: as SETCOLS with the page command and the bound PAGES-1 of the configuration (43_window.md R142). -/
def Obligations.SetpagesSendsWindow : Prop :=
  ∀ (s : State) (start stop : Int) (c : Byte),
    let bound : Int := (s.cfg.height.rows : Int) / 8 - 1
    let last : Int := if c.getLsbD 0 then bound else stop
    let bytes : List Byte := [0x22, BitVec.ofInt 8 start, BitVec.ofInt 8 last]
    (¬ (0 ≤ start ∧ start ≤ bound) → exec (.setpages start stop c) s =
      .next (answered { s with seq := 0 } { status := 0x12, info := .window .page .start start 0 bound })) ∧
    (0 ≤ start ∧ start ≤ bound → ¬ (start ≤ last ∧ last ≤ bound) → exec (.setpages start stop c) s =
      .next (answered { s with seq := 0 } { status := 0x13, info := .window .page .stop last start bound })) ∧
    (0 ≤ start ∧ start ≤ bound → start ≤ last ∧ last ≤ bound → allAck s 3 → exec (.setpages start stop c) s =
      .next (afterBus s 3 3 s.fsm (ackedFrames s.cfg bytes) okResponse)) ∧
    (0 ≤ start ∧ start ≤ bound → start ≤ last ∧ last ≤ bound → ∀ k, k < 3 → failsAt s k →
      exec (.setpages start stop c) s =
        .next (afterBus s (k + 1) k s.fsm (failedFrames s.cfg bytes k) (busError k)))

/-! ## Responses, errors and frames -/

/-- ERR_BUS is answered exactly when a transaction of the operation FAILs, for the first one, with the count of those
ACKed before it, and within the operation's own range of counts; CLEAR, SETPIX, PIXEL, WRBYTE and POWERON never answer
it (60_exceptions.md R156). -/
def Obligations.BusErrorCountsPerOperation : Prop :=
  ∀ (i : Instr) (s : State), ∃ t events r, exec i s = .next t ∧ t.trace = s.trace ++ events ++ [.response r] ∧
    (r.status = 0x04 ↔ events.any isFailedTx = true) ∧
    (r.status = 0x04 → ∃ k, r = busError k ∧ failsAt s k ∧ (events.filter isAckedTx).length = k ∧
      match i with
      | .wrcmd _ => k = 0
      | .poweroff => k = 0
      | .invert _ => k = 0
      | .contrast _ => k ≤ 1
      | .setcols _ _ _ => k ≤ 2
      | .setpages _ _ _ => k ≤ 2
      | .display => k ≤ 6
      | .initdisp => k ≤ 23
      | .clear => False
      | .setpix _ _ _ => False
      | .pixel _ _ _ => False
      | .wrbyte _ _ => False
      | .poweron => False)

/-- The block answers no status but those of the table, each from the operations that raise it (60_exceptions.md
R153). -/
def Obligations.StatusCodesPerOperation : Prop :=
  (∀ (op : Byte) (s : State), ∃ t, illegalRequest op s = .next t ∧
    t.trace.getLast? = some (.response { status := 0x01, info := .op op })) ∧
  (∀ (i : Instr) (s : State), ∃ t r, exec i s = .next t ∧ t.trace.getLast? = some (.response r) ∧
    (r = okResponse ∨
      match i with
      | .clear => False
      | .poweron => False
      | .setpix x y _ => r = pixelError x y
      | .pixel x y _ => r = pixelError x y
      | .wrbyte k _ => r = { status := 0x03, info := .index k }
      | .wrcmd _ => ∃ k, r = busError k
      | .display => ∃ k, r = busError k
      | .initdisp => ∃ k, r = busError k
      | .poweroff => ∃ k, r = busError k
      | .contrast _ => ∃ k, r = busError k
      | .invert _ => ∃ k, r = busError k
      | .setcols start stop c =>
          (∃ k, r = busError k) ∨ r = { status := 0x10, info := .window .col .start start 0 127 } ∨
          r = { status := 0x11,
                info := .window .col .stop (if c.getLsbD 0 then 127 else stop) start 127 }
      | .setpages start stop c =>
          (∃ k, r = busError k) ∨
          r = { status := 0x12, info := .window .page .start start 0 ((s.cfg.height.rows : Int) / 8 - 1) } ∨
          r = { status := 0x13,
                info := .window .page .stop
                  (if c.getLsbD 0 then (s.cfg.height.rows : Int) / 8 - 1 else stop) start
                  ((s.cfg.height.rows : Int) / 8 - 1) }))

/-- A range error is raised before any effect: beside the response, `seq` alone may have been written (60_exceptions.md
R152; the setters' `seq <- 0` before their check is 43_window.md R140's and R142's, log 6). -/
def Obligations.RangeErrorsHaveNoEffect : Prop :=
  ∀ (i : Instr) (s : State), ∃ t r, exec i s = .next t ∧ t.trace.getLast? = some (.response r) ∧
    (r.status ≠ 0x00 → r.status ≠ 0x04 → t = answered { s with seq := t.seq } r)

/-- Exactly one response per accepted request, after every effect of the operation: `(0x00, none)`, or the code and the
record of an error, and `info` is none exactly for success (30_encoding.md R69). -/
def Obligations.ExactlyOneResponse : Prop :=
  ∀ (s : State) (w : Request) (rest : List Request), s.busy = false → s.requests = w :: rest →
    ∃ t events r, step s = .next t ∧ t.requests = rest ∧
      t.trace = s.trace ++ events ++ [.response r] ∧
      events.all (fun e => !isResponse e) = true ∧ (r.status = 0x00 ↔ r.info = .none) ∧
      (r = okResponse ∨ ∃ e : Err, r = e.response)

/-- What was answered or shown before, and what waits on the port, does not matter to an operation (10_state.md R29). -/
def Obligations.EarlierResponsesDoNotMatter : Prop :=
  ∀ (i : Instr) (s : State) (before : List Event) (waiting : List Request),
    ∃ t events, exec i s = .next t ∧ t.trace = s.trace ++ events ∧
      exec i { s with trace := before, requests := waiting } =
        .next { t with trace := before ++ events, requests := waiting }

/-- The frame of the operations that store nothing in the frame buffer: every byte of it, the waiting requests and the
configuration are as before; `fsm` is as before but for POWERON, INITDISP, POWEROFF and INVERT; the reset line but for
POWERON ("State written" of 41_protocol.md R100, R104, 42_init_sequence.md R122 to R133, 43_window.md R140, R142). -/
def Obligations.CommandOperationsFrame : Prop :=
  ∀ (i : Instr) (s : State), isBufferOp i = false →
    ∃ t, exec i s = .next t ∧ (∀ a, t.fb.read a = s.fb.read a) ∧ t.fb = s.fb ∧ t.cfg = s.cfg ∧
      t.requests = s.requests ∧
      (i ≠ .poweron → t.rstOut = s.rstOut) ∧
      (i ≠ .poweron → i ≠ .initdisp → i ≠ .poweroff → (∀ c, i ≠ .invert c) → t.fsm = s.fsm)

/-- Only POWERON, and only where the line exists, writes the reset line, and it leaves it high (10_state.md R27). -/
def Obligations.ResetLineOnlyByPoweron : Prop :=
  ∀ (i : Instr) (s : State), ∃ t, exec i s = .next t ∧
    t.rstOut = if i = .poweron ∧ s.cfg.hasRst = true then some .high else s.rstOut

/-- `seq` is 0 at the start of every operation and counts its ACKed transactions, 24 at most: after the step that performs
an accepted request, whichever of the thirteen operations it is, `seq` is the number of transactions the step showed that
were ACKed; the operations of the framer, the init sequence and the window setters count from 0 on in every state
(10_state.md R26). -/
def Obligations.SeqCountsAckedTransactions : Prop :=
  (∀ (s : State) (w : Request) (rest : List Request) (i : Instr),
      s.busy = false → s.requests = w :: rest → decode w = .instr i →
      ∃ t events, step s = .next t ∧ t.trace = s.trace ++ events ∧
        t.seq = (events.filter isAckedTx).length ∧ t.seq ≤ 24) ∧
  (∀ (i : Instr) (s : State), isBufferOp i = false →
      ∃ t events, exec i s = .next t ∧ t.trace = s.trace ++ events ∧
        t.seq = (events.filter isAckedTx).length ∧ t.seq ≤ 24)

/-! ## Invariants and runs -/

/-- The invariant holds after every construction, whatever requests wait and whatever the platform will answer
(70_reset_and_hazards.md R200; the canonical form is the model's, log 8). -/
def Obligations.ConstructionMeetsInv : Prop :=
  ∀ (c : Cfg) (requests : List Request) (answers : List BusAnswer),
    Inv { State.ofCfg c with requests := requests, answers := answers }

/-- Every step keeps the invariant: canonical frame buffer inside its bound, marker in place, reset line present exactly
when configured, no request in flight, `seq` at most 24, and every transaction shown so far of one of the two frame shapes
to the device address (20_memory.md R38, R50; 10_state.md R26, R27, R30; 30_encoding.md R65; the canonical form is the
model's, log 8). -/
def Obligations.StepKeepsInv : Prop :=
  ∀ s : State, Inv s → ∃ t, step s = .next t ∧ Inv t

/-- In every run from a construction, with any requests and any answers of the platform, the marker is in place and
every transaction ever emitted has one of the two frame shapes and goes to the device address (20_memory.md R50,
30_encoding.md R65). -/
def Obligations.TransmissionsAlwaysWellFormed : Prop :=
  ∀ (c : Cfg) (requests : List Request) (answers : List BusAnswer) (n : Nat),
    ∃ t, Host.Core.run core n { State.ofCfg c with requests := requests, answers := answers } = .next t ∧
      t.fb.read 0 = 0x40 ∧ t.cfg = c ∧ ∀ e, e ∈ t.trace → wellFormedTx c e

/-! ## The host-side clients -/

/-- `p_char` writes the glyph's five bytes and one zero byte from `128*row + 6*col + 1` on, nothing else of the buffer,
and advances the cursor; a codepoint without a glyph is refused before anything is written (48_clients.md R182). -/
def Obligations.CharacterCellWritten : Prop :=
  ∀ (font : List Byte) (ch : Nat) (u : Clients.Session),
    (Clients.glyph font ch = none → Clients.pChar font ch u = (u, some .glyph)) ∧
    (∀ g, Clients.glyph font ch = some g → cursorOnPanel u.block.cfg u.cursor → u.block.fb.wf = true →
      g.length = 5 ∧
      ∃ t, Clients.pChar font ch u = (t, none) ∧ t.block.cfg = u.block.cfg ∧
        t.cursor = Clients.advance u.block.cfg u.cursor ∧
        ∀ a, t.block.fb.read a =
          if 128 * u.cursor.row + 6 * u.cursor.col + 1 ≤ a ∧ a < 128 * u.cursor.row + 6 * u.cursor.col + 7 then
            ((g ++ [0x00])[a - (128 * u.cursor.row + 6 * u.cursor.col + 1)]?).getD 0
          else u.block.fb.read a)

/-- The cursor stays on a cell of the panel through any text, whether or not a codepoint is refused (48_clients.md
R180, R184). -/
def Obligations.CursorStaysOnPanel : Prop :=
  ∀ (font : List Byte) (text : List Nat) (u : Clients.Session), cursorOnPanel u.block.cfg u.cursor →
    cursorOnPanel (Clients.pString font text u).1.block.cfg (Clients.pString font text u).1.cursor

/-- From column 0, 21 characters fill a character row: cell `c` holds the glyph of character `c` and one zero byte, every
other byte of the buffer is as before, columns 126 and 127 of the page among them, and the cursor is at column 0 of the
next row, or of row 0 after the last row (48_clients.md R182, R185). -/
def Obligations.CharacterRowFills : Prop :=
  ∀ (font : List Byte) (text : List Nat) (u : Clients.Session), u.block.fb.wf = true →
    (∀ ch, ch ∈ text → Clients.glyph font ch ≠ none) → text.length = 21 →
    u.cursor.col = 0 → u.cursor.row < u.block.cfg.pages →
    ∃ t, Clients.pString font text u = (t, none) ∧
      t.cursor = { row := if u.cursor.row + 1 < u.block.cfg.pages then u.cursor.row + 1 else 0, col := 0 } ∧
      (∀ (c ch : Nat) (g : List Byte), text[c]? = some ch → Clients.glyph font ch = some g → ∀ j, j < 6 →
        t.block.fb.read (128 * u.cursor.row + 6 * c + 1 + j) = ((g ++ [0x00])[j]?).getD 0) ∧
      (∀ a, a < 128 * u.cursor.row + 1 ∨ 128 * u.cursor.row + 127 ≤ a → t.block.fb.read a = u.block.fb.read a)

/-- The bitmap decoder never clears a pixel, however it ends (48_clients.md R191). -/
def Obligations.DecoderNeverClears : Prop :=
  ∀ (magic : Byte × Byte) (u : Clients.DecodeSession), u.block.fb.wf = true →
    ∀ a n, (u.block.fb.read a).getLsbD n = true →
      ((Clients.decodeBitmap magic u).1.block.fb.read a).getLsbD n = true

/-- A decode opens the file and the block, uses them, and releases both on every exit path; nothing is read or requested
after a read that failed, and CERR_IO is the end of exactly the decodes in which one did; when the platform fails the
first read nothing is painted (48_clients.md R192). The model's choice (log 18): that both resources are opened before any
read or request and released after all of them, that a read past the end of the file is one that fails, and that every
decode makes a first read, which the platform can fail. -/
def Obligations.DecodeReleasesItsResources : Prop :=
  ∀ (magic : Byte × Byte) (u : Clients.DecodeSession),
    let r := Clients.decodeBitmap magic u
    r.1.fileOpen = false ∧ r.1.blockOpen = false ∧
    (∃ opening inner closing, r.1.uses = u.uses ++ opening ++ inner ++ closing ∧
      opening.length = 2 ∧ .opened .file ∈ opening ∧ .opened .block ∈ opening ∧
      closing.length = 2 ∧ .released .file ∈ closing ∧ .released .block ∈ closing ∧
      inner.all isInnerUse = true ∧ inner.dropLast.all (fun e => !isFailedRead e) = true ∧
      (r.2 = some .io ↔ inner.any isFailedRead = true)) ∧
    (Clients.readAnswerAt u 0 = .failed → r.2 = some .io ∧ r.1.block = u.block)

/-- What a 24-bit bitmap paints. A bitmap whose inspected bytes are all 0xFF decodes without error and leaves the block as
it was. After a decode that ends without error a pixel of the panel is set exactly when it was set before, or is a pixel
of the image whose first byte is not 0xFF, file row `r` standing at `y = height - 1 - r`. A bitmap that fits the panel and
the file decodes without error (48_clients.md R191, R193; that a decode makes `readsOf h` reads is the model's choice,
log 18). -/
def Obligations.BitmapPaintsNonWhitePixels : Prop :=
  ∀ (magic : Byte × Byte) (u : Clients.DecodeSession) (h : Clients.BmpHeader),
    hasSignature magic u.file → Clients.readHeader u.file = some h → h.bpp = 24 → u.block.fb.wf = true →
    (readsDone u (readsOf h) →
      (∀ r x, r < h.height → x < h.width → u.file[Clients.pixelOffset h r x]? = some 0xFF) →
      (Clients.decodeBitmap magic u).2 = none ∧ (Clients.decodeBitmap magic u).1.block = u.block) ∧
    ((Clients.decodeBitmap magic u).2 = none → ∀ x y : Nat, onPanel u.block.cfg x y →
      (pixelOn (Clients.decodeBitmap magic u).1.block x y = true ↔
        pixelOn u.block x y = true ∨
        (x < h.width ∧ y < h.height ∧
          ∃ b, u.file[Clients.pixelOffset h (h.height - 1 - y) x]? = some b ∧ b ≠ 0xFF))) ∧
    (readsDone u (readsOf h) → h.width ≤ 128 → h.height ≤ u.block.cfg.height.rows →
      (∀ r x, r < h.height → x < h.width → Clients.pixelOffset h r x < u.file.length) →
      (Clients.decodeBitmap magic u).2 = none)
end

