-- ==== Sys2Proof/Laws/Memory.lean ====
section
/-! SUPPORT. What the frame-buffer operations do: reads after writes and after CLEAR's sweep, and that every operation
keeps the canonical form and the buffer's bound. -/

namespace Sys2Proof.Laws

open Sys2Proof.Machine

theorem wfFrom_cons {k : Nat} {cell : Host.Cell} {rest : Memory} :
    Memory.wfFrom k (cell :: rest) = true ↔
      k ≤ cell.1 ∧ cell.2 ≠ Memory.unlisted cell.1 ∧ Memory.wfFrom (cell.1 + 1) rest = true := by
  simp [Memory.wfFrom, and_assoc]

theorem wfFrom_mono {k j : Nat} {m : Memory} (h : Memory.wfFrom k m = true) (hj : j ≤ k) :
    Memory.wfFrom j m = true := by
  cases m with
  | nil => rfl
  | cons cell rest =>
    rw [wfFrom_cons] at h ⊢
    exact ⟨Nat.le_trans hj h.1, h.2⟩

/-- Below the least listed index the buffer reads as unlisted. -/
theorem read_below {k : Nat} {m : Memory} (h : Memory.wfFrom k m = true) {j : Nat} (hj : j < k) :
    m.read j = Memory.unlisted j := by
  induction m generalizing k with
  | nil => rfl
  | cons cell rest ih =>
    rw [wfFrom_cons] at h
    have hne : cell.1 ≠ j := by omega
    simp only [Memory.read, hne, if_false]
    exact ih h.2.2 (by omega)

theorem read_consCell {i : Nat} {rest : Memory} (h : Memory.wfFrom (i + 1) rest = true) (v : Byte) (j : Nat) :
    (Memory.cons i v rest).read j = if j = i then v else rest.read j := by
  unfold Memory.cons
  split
  · next hv =>
    split
    · next hj => rw [hj, hv]; exact read_below h (Nat.lt_succ_self i)
    · rfl
  · simp only [Memory.read, eq_comm]

theorem wfFrom_consCell {k i : Nat} {rest : Memory} (hk : k ≤ i) (h : Memory.wfFrom (i + 1) rest = true)
    (v : Byte) : Memory.wfFrom k (Memory.cons i v rest) = true := by
  unfold Memory.cons
  split
  · exact wfFrom_mono h (by omega)
  · next hv => exact wfFrom_cons.2 ⟨hk, hv, h⟩

/-- A write keeps the canonical form, from any bound that the index meets. -/
theorem write_wfFrom {k : Nat} {m : Memory} (h : Memory.wfFrom k m = true) {i : Nat} (hi : k ≤ i) (v : Byte) :
    Memory.wfFrom k (m.write i v) = true := by
  induction m generalizing k with
  | nil => exact wfFrom_consCell hi rfl v
  | cons cell rest ih =>
    have hc := wfFrom_cons.1 h
    unfold Memory.write
    split
    · next hlt => exact wfFrom_consCell hi (wfFrom_cons.2 ⟨hlt, hc.2⟩) v
    · split
      · next heq => exact wfFrom_consCell hi (heq ▸ hc.2.2) v
      · exact wfFrom_cons.2 ⟨hc.1, hc.2.1, ih hc.2.2 (by omega)⟩

/-- A write keeps the canonical form. -/
theorem write_wf {m : Memory} (h : m.wf = true) (i : Nat) (v : Byte) : (m.write i v).wf = true :=
  write_wfFrom h (Nat.zero_le i) v

theorem read_write_from {k : Nat} {m : Memory} (h : Memory.wfFrom k m = true) (i : Nat) (v : Byte) (j : Nat) :
    (m.write i v).read j = if j = i then v else m.read j := by
  induction m generalizing k with
  | nil => exact read_consCell rfl v j
  | cons cell rest ih =>
    have hc := wfFrom_cons.1 h
    unfold Memory.write
    split
    · next hlt => exact read_consCell (wfFrom_cons.2 ⟨hlt, hc.2⟩) v j
    · split
      · next heq =>
        rw [read_consCell (heq ▸ hc.2.2) v j]
        split
        · rfl
        · next hj => simp [Memory.read, show cell.1 ≠ j by omega]
      · next hne =>
        simp only [Memory.read]
        split
        · next hj => simp [show j ≠ i by omega]
        · exact ih hc.2.2

/-- A read after a write: the value written at its index, the byte as before at every other. -/
theorem read_write {m : Memory} (h : m.wf = true) (i : Nat) (v : Byte) (j : Nat) :
    (m.write i v).read j = if j = i then v else m.read j :=
  read_write_from h i v j

theorem within_cons {n : Nat} {cell : Host.Cell} {rest : Memory} :
    Memory.within n (cell :: rest) = true ↔ cell.1 < n ∧ Memory.within n rest = true := by
  simp [Memory.within]

theorem within_consCell {n i : Nat} {rest : Memory} (hi : i < n) (h : Memory.within n rest = true) (v : Byte) :
    Memory.within n (Memory.cons i v rest) = true := by
  unfold Memory.cons
  split
  · exact h
  · exact within_cons.2 ⟨hi, h⟩

/-- A write inside the buffer keeps every listed index inside. -/
theorem write_within {n : Nat} {m : Memory} (h : m.within n = true) {i : Nat} (hi : i < n) (v : Byte) :
    (m.write i v).within n = true := by
  induction m with
  | nil => exact within_consCell hi rfl v
  | cons cell rest ih =>
    have hc := within_cons.1 h
    unfold Memory.write
    split
    · exact within_consCell hi h v
    · split
      · exact within_consCell hi hc.2 v
      · exact within_cons.2 ⟨hc.1, ih hc.2⟩

theorem clearBelow_cons (n : Nat) (cell : Host.Cell) (rest : Memory) :
    Memory.clearBelow n (cell :: rest) =
      if n ≤ cell.1 then cell :: Memory.clearBelow n rest else Memory.clearBelow n rest := by
  simp [Memory.clearBelow, List.filter_cons]

theorem clearBelow_wfFrom {k n : Nat} {m : Memory} (h : Memory.wfFrom k m = true) :
    Memory.wfFrom k (m.clearBelow n) = true := by
  induction m generalizing k with
  | nil => rfl
  | cons cell rest ih =>
    have hc := wfFrom_cons.1 h
    rw [clearBelow_cons]
    split
    · exact wfFrom_cons.2 ⟨hc.1, hc.2.1, ih hc.2.2⟩
    · exact wfFrom_mono (ih hc.2.2) (by omega)

/-- CLEAR's sweep keeps the canonical form. -/
theorem clearBelow_wf {n : Nat} {m : Memory} (h : m.wf = true) : (m.clearBelow n).wf = true :=
  clearBelow_wfFrom h

theorem clearBelow_within {n k : Nat} {m : Memory} (h : m.within k = true) : (m.clearBelow n).within k = true := by
  induction m with
  | nil => rfl
  | cons cell rest ih =>
    have hc := within_cons.1 h
    rw [clearBelow_cons]
    split
    · exact within_cons.2 ⟨hc.1, ih hc.2⟩
    · exact ih hc.2

/-- After CLEAR's sweep every index below the bound reads as unlisted, and the others as before. -/
theorem read_clearBelow (n : Nat) (m : Memory) (j : Nat) :
    (m.clearBelow n).read j = if j < n then Memory.unlisted j else m.read j := by
  induction m with
  | nil => simp [Memory.clearBelow, Memory.read]
  | cons cell rest ih =>
    rw [clearBelow_cons]
    split
    · simp only [Memory.read, ih]
      split
      · next hj => rw [if_neg (by omega)]
      · rfl
    · rw [ih]
      split
      · rfl
      · next hc hj => simp [Memory.read, show cell.1 ≠ j by omega]

@[simp] theorem bytes_length (n : Nat) (m : Memory) : (m.bytes n).length = n := by
  simp [Memory.bytes]

theorem bytes_get (n : Nat) (m : Memory) {i : Nat} (hi : i < n) : (m.bytes n)[i]? = some (m.read i) := by
  simp [Memory.bytes, hi]

end Sys2Proof.Laws
end

