-- ==== Sys2Proof/Laws/State.lean ====
section
/-! SUPPORT. One lemma per field and per update of the state, so that no proof unfolds a record update. -/

namespace Sys2Proof.Laws

open Sys2Proof.Machine Sys2Proof.Safety

/-! ### setSeq -/

@[simp] theorem setSeq_cfg (n : Nat) (s : State) : (setSeq n s).cfg = s.cfg := rfl
@[simp] theorem setSeq_fb (n : Nat) (s : State) : (setSeq n s).fb = s.fb := rfl
@[simp] theorem setSeq_fsm (n : Nat) (s : State) : (setSeq n s).fsm = s.fsm := rfl
@[simp] theorem setSeq_seq (n : Nat) (s : State) : (setSeq n s).seq = n := rfl
@[simp] theorem setSeq_busy (n : Nat) (s : State) : (setSeq n s).busy = s.busy := rfl
@[simp] theorem setSeq_rstOut (n : Nat) (s : State) : (setSeq n s).rstOut = s.rstOut := rfl
@[simp] theorem setSeq_requests (n : Nat) (s : State) : (setSeq n s).requests = s.requests := rfl
@[simp] theorem setSeq_trace (n : Nat) (s : State) : (setSeq n s).trace = s.trace := rfl
@[simp] theorem setSeq_answers (n : Nat) (s : State) : (setSeq n s).answers = s.answers := rfl
@[simp] theorem setSeq_draws (n : Nat) (s : State) : (setSeq n s).draws = s.draws := rfl

/-! ### startOperation -/

@[simp] theorem startOperation_cfg (s : State) : (startOperation s).cfg = s.cfg := rfl
@[simp] theorem startOperation_fb (s : State) : (startOperation s).fb = s.fb := rfl
@[simp] theorem startOperation_fsm (s : State) : (startOperation s).fsm = s.fsm := rfl
@[simp] theorem startOperation_seq (s : State) : (startOperation s).seq = 0 := rfl
@[simp] theorem startOperation_busy (s : State) : (startOperation s).busy = s.busy := rfl
@[simp] theorem startOperation_rstOut (s : State) : (startOperation s).rstOut = s.rstOut := rfl
@[simp] theorem startOperation_requests (s : State) : (startOperation s).requests = s.requests := rfl
@[simp] theorem startOperation_trace (s : State) : (startOperation s).trace = s.trace := rfl
@[simp] theorem startOperation_answers (s : State) : (startOperation s).answers = s.answers := rfl
@[simp] theorem startOperation_draws (s : State) : (startOperation s).draws = s.draws := rfl

/-! ### setFsm -/

@[simp] theorem setFsm_cfg (f : Fsm) (s : State) : (setFsm f s).cfg = s.cfg := rfl
@[simp] theorem setFsm_fb (f : Fsm) (s : State) : (setFsm f s).fb = s.fb := rfl
@[simp] theorem setFsm_fsm (f : Fsm) (s : State) : (setFsm f s).fsm = f := rfl
@[simp] theorem setFsm_seq (f : Fsm) (s : State) : (setFsm f s).seq = s.seq := rfl
@[simp] theorem setFsm_busy (f : Fsm) (s : State) : (setFsm f s).busy = s.busy := rfl
@[simp] theorem setFsm_rstOut (f : Fsm) (s : State) : (setFsm f s).rstOut = s.rstOut := rfl
@[simp] theorem setFsm_requests (f : Fsm) (s : State) : (setFsm f s).requests = s.requests := rfl
@[simp] theorem setFsm_trace (f : Fsm) (s : State) : (setFsm f s).trace = s.trace := rfl
@[simp] theorem setFsm_answers (f : Fsm) (s : State) : (setFsm f s).answers = s.answers := rfl
@[simp] theorem setFsm_draws (f : Fsm) (s : State) : (setFsm f s).draws = s.draws := rfl

/-! ### memWrite -/

@[simp] theorem memWrite_cfg (i : Nat) (v : Byte) (s : State) : (memWrite i v s).cfg = s.cfg := rfl
@[simp] theorem memWrite_fb (i : Nat) (v : Byte) (s : State) : (memWrite i v s).fb = s.fb.write i v := rfl
@[simp] theorem memWrite_fsm (i : Nat) (v : Byte) (s : State) : (memWrite i v s).fsm = s.fsm := rfl
@[simp] theorem memWrite_seq (i : Nat) (v : Byte) (s : State) : (memWrite i v s).seq = s.seq := rfl
@[simp] theorem memWrite_busy (i : Nat) (v : Byte) (s : State) : (memWrite i v s).busy = s.busy := rfl
@[simp] theorem memWrite_rstOut (i : Nat) (v : Byte) (s : State) : (memWrite i v s).rstOut = s.rstOut := rfl
@[simp] theorem memWrite_requests (i : Nat) (v : Byte) (s : State) : (memWrite i v s).requests = s.requests := rfl
@[simp] theorem memWrite_trace (i : Nat) (v : Byte) (s : State) : (memWrite i v s).trace = s.trace := rfl
@[simp] theorem memWrite_answers (i : Nat) (v : Byte) (s : State) : (memWrite i v s).answers = s.answers := rfl
@[simp] theorem memWrite_draws (i : Nat) (v : Byte) (s : State) : (memWrite i v s).draws = s.draws := rfl

/-! ### emit -/

@[simp] theorem emit_cfg (e : Event) (s : State) : (emit e s).cfg = s.cfg := rfl
@[simp] theorem emit_fb (e : Event) (s : State) : (emit e s).fb = s.fb := rfl
@[simp] theorem emit_fsm (e : Event) (s : State) : (emit e s).fsm = s.fsm := rfl
@[simp] theorem emit_seq (e : Event) (s : State) : (emit e s).seq = s.seq := rfl
@[simp] theorem emit_busy (e : Event) (s : State) : (emit e s).busy = s.busy := rfl
@[simp] theorem emit_rstOut (e : Event) (s : State) : (emit e s).rstOut = s.rstOut := rfl
@[simp] theorem emit_requests (e : Event) (s : State) : (emit e s).requests = s.requests := rfl
@[simp] theorem emit_trace (e : Event) (s : State) : (emit e s).trace = s.trace ++ [e] := rfl
@[simp] theorem emit_answers (e : Event) (s : State) : (emit e s).answers = s.answers := rfl
@[simp] theorem emit_draws (e : Event) (s : State) : (emit e s).draws = s.draws := rfl

/-! ### delay -/

@[simp] theorem delay_cfg (ms : Nat) (s : State) : (delay ms s).cfg = s.cfg := rfl
@[simp] theorem delay_fb (ms : Nat) (s : State) : (delay ms s).fb = s.fb := rfl
@[simp] theorem delay_fsm (ms : Nat) (s : State) : (delay ms s).fsm = s.fsm := rfl
@[simp] theorem delay_seq (ms : Nat) (s : State) : (delay ms s).seq = s.seq := rfl
@[simp] theorem delay_busy (ms : Nat) (s : State) : (delay ms s).busy = s.busy := rfl
@[simp] theorem delay_rstOut (ms : Nat) (s : State) : (delay ms s).rstOut = s.rstOut := rfl
@[simp] theorem delay_requests (ms : Nat) (s : State) : (delay ms s).requests = s.requests := rfl
@[simp] theorem delay_trace (ms : Nat) (s : State) : (delay ms s).trace = s.trace ++ [.delay ms] := rfl
@[simp] theorem delay_answers (ms : Nat) (s : State) : (delay ms s).answers = s.answers := rfl
@[simp] theorem delay_draws (ms : Nat) (s : State) : (delay ms s).draws = s.draws := rfl

/-! ### driveRst -/

@[simp] theorem driveRst_cfg (l : Level) (s : State) : (driveRst l s).cfg = s.cfg := rfl
@[simp] theorem driveRst_fb (l : Level) (s : State) : (driveRst l s).fb = s.fb := rfl
@[simp] theorem driveRst_fsm (l : Level) (s : State) : (driveRst l s).fsm = s.fsm := rfl
@[simp] theorem driveRst_seq (l : Level) (s : State) : (driveRst l s).seq = s.seq := rfl
@[simp] theorem driveRst_busy (l : Level) (s : State) : (driveRst l s).busy = s.busy := rfl
@[simp] theorem driveRst_rstOut (l : Level) (s : State) : (driveRst l s).rstOut = some l := rfl
@[simp] theorem driveRst_requests (l : Level) (s : State) : (driveRst l s).requests = s.requests := rfl
@[simp] theorem driveRst_trace (l : Level) (s : State) : (driveRst l s).trace = s.trace ++ [.rstOut l] := rfl
@[simp] theorem driveRst_answers (l : Level) (s : State) : (driveRst l s).answers = s.answers := rfl
@[simp] theorem driveRst_draws (l : Level) (s : State) : (driveRst l s).draws = s.draws := rfl

/-! ### respond -/

@[simp] theorem respond_cfg (r : Response) (s : State) : (respond r s).cfg = s.cfg := rfl
@[simp] theorem respond_fb (r : Response) (s : State) : (respond r s).fb = s.fb := rfl
@[simp] theorem respond_fsm (r : Response) (s : State) : (respond r s).fsm = s.fsm := rfl
@[simp] theorem respond_seq (r : Response) (s : State) : (respond r s).seq = s.seq := rfl
@[simp] theorem respond_busy (r : Response) (s : State) : (respond r s).busy = false := rfl
@[simp] theorem respond_rstOut (r : Response) (s : State) : (respond r s).rstOut = s.rstOut := rfl
@[simp] theorem respond_requests (r : Response) (s : State) : (respond r s).requests = s.requests := rfl
@[simp] theorem respond_trace (r : Response) (s : State) : (respond r s).trace = s.trace ++ [.response r] := rfl
@[simp] theorem respond_answers (r : Response) (s : State) : (respond r s).answers = s.answers := rfl
@[simp] theorem respond_draws (r : Response) (s : State) : (respond r s).draws = s.draws := rfl

/-! ### offer -/

@[simp] theorem offer_cfg (w : Request) (s : State) : (offer w s).cfg = s.cfg := rfl
@[simp] theorem offer_fb (w : Request) (s : State) : (offer w s).fb = s.fb := rfl
@[simp] theorem offer_fsm (w : Request) (s : State) : (offer w s).fsm = s.fsm := rfl
@[simp] theorem offer_seq (w : Request) (s : State) : (offer w s).seq = s.seq := rfl
@[simp] theorem offer_busy (w : Request) (s : State) : (offer w s).busy = s.busy := rfl
@[simp] theorem offer_rstOut (w : Request) (s : State) : (offer w s).rstOut = s.rstOut := rfl
@[simp] theorem offer_requests (w : Request) (s : State) : (offer w s).requests = w :: s.requests := rfl
@[simp] theorem offer_trace (w : Request) (s : State) : (offer w s).trace = s.trace := rfl
@[simp] theorem offer_answers (w : Request) (s : State) : (offer w s).answers = s.answers := rfl
@[simp] theorem offer_draws (w : Request) (s : State) : (offer w s).draws = s.draws := rfl

/-! ### takeAnswer -/

@[simp] theorem takeAnswer_cfg (s : State) : (takeAnswer s).cfg = s.cfg := by
  unfold takeAnswer; split <;> simp [*]
@[simp] theorem takeAnswer_fb (s : State) : (takeAnswer s).fb = s.fb := by
  unfold takeAnswer; split <;> simp [*]
@[simp] theorem takeAnswer_fsm (s : State) : (takeAnswer s).fsm = s.fsm := by
  unfold takeAnswer; split <;> simp [*]
@[simp] theorem takeAnswer_seq (s : State) : (takeAnswer s).seq = s.seq := by
  unfold takeAnswer; split <;> simp [*]
@[simp] theorem takeAnswer_busy (s : State) : (takeAnswer s).busy = s.busy := by
  unfold takeAnswer; split <;> simp [*]
@[simp] theorem takeAnswer_rstOut (s : State) : (takeAnswer s).rstOut = s.rstOut := by
  unfold takeAnswer; split <;> simp [*]
@[simp] theorem takeAnswer_requests (s : State) : (takeAnswer s).requests = s.requests := by
  unfold takeAnswer; split <;> simp [*]
@[simp] theorem takeAnswer_trace (s : State) : (takeAnswer s).trace = s.trace := by
  unfold takeAnswer; split <;> simp [*]
@[simp] theorem takeAnswer_answers (s : State) : (takeAnswer s).answers = s.answers.drop 1 := by
  unfold takeAnswer; split <;> simp [*]
@[simp] theorem takeAnswer_draws (s : State) : (takeAnswer s).draws = s.draws + (1 - s.answers.length) := by
  unfold takeAnswer; split <;> simp [*]

/-! ### busTx -/

@[simp] theorem busTx_cfg (bytes : List Byte) (s : State) : (busTx bytes s).cfg = s.cfg := by
  simp [busTx]
@[simp] theorem busTx_fb (bytes : List Byte) (s : State) : (busTx bytes s).fb = s.fb := by
  simp [busTx]
@[simp] theorem busTx_fsm (bytes : List Byte) (s : State) : (busTx bytes s).fsm = s.fsm := by
  simp [busTx]
@[simp] theorem busTx_seq (bytes : List Byte) (s : State) : (busTx bytes s).seq = s.seq := by
  simp [busTx]
@[simp] theorem busTx_busy (bytes : List Byte) (s : State) : (busTx bytes s).busy = s.busy := by
  simp [busTx]
@[simp] theorem busTx_rstOut (bytes : List Byte) (s : State) : (busTx bytes s).rstOut = s.rstOut := by
  simp [busTx]
@[simp] theorem busTx_requests (bytes : List Byte) (s : State) : (busTx bytes s).requests = s.requests := by
  simp [busTx]
@[simp] theorem busTx_trace (bytes : List Byte) (s : State) : (busTx bytes s).trace = s.trace ++ [.busTx s.cfg.addr bytes (answerAt s 0)] := by
  simp [busTx]
@[simp] theorem busTx_answers (bytes : List Byte) (s : State) : (busTx bytes s).answers = s.answers.drop 1 := by
  simp [busTx]
@[simp] theorem busTx_draws (bytes : List Byte) (s : State) : (busTx bytes s).draws = s.draws + (1 - s.answers.length) := by
  simp [busTx]

/-! ### afterBus and answered -/

@[simp] theorem afterBus_cfg (s : State) (n q : Nat) (f : Fsm) (es : List Event) (r : Response) :
    (afterBus s n q f es r).cfg = s.cfg := rfl
@[simp] theorem afterBus_fb (s : State) (n q : Nat) (f : Fsm) (es : List Event) (r : Response) :
    (afterBus s n q f es r).fb = s.fb := rfl
@[simp] theorem afterBus_fsm (s : State) (n q : Nat) (f : Fsm) (es : List Event) (r : Response) :
    (afterBus s n q f es r).fsm = f := rfl
@[simp] theorem afterBus_seq (s : State) (n q : Nat) (f : Fsm) (es : List Event) (r : Response) :
    (afterBus s n q f es r).seq = q := rfl
@[simp] theorem afterBus_busy (s : State) (n q : Nat) (f : Fsm) (es : List Event) (r : Response) :
    (afterBus s n q f es r).busy = false := rfl
@[simp] theorem afterBus_rstOut (s : State) (n q : Nat) (f : Fsm) (es : List Event) (r : Response) :
    (afterBus s n q f es r).rstOut = s.rstOut := rfl
@[simp] theorem afterBus_requests (s : State) (n q : Nat) (f : Fsm) (es : List Event) (r : Response) :
    (afterBus s n q f es r).requests = s.requests := rfl
@[simp] theorem afterBus_trace (s : State) (n q : Nat) (f : Fsm) (es : List Event) (r : Response) :
    (afterBus s n q f es r).trace = s.trace ++ es ++ [.response r] := rfl
@[simp] theorem afterBus_answers (s : State) (n q : Nat) (f : Fsm) (es : List Event) (r : Response) :
    (afterBus s n q f es r).answers = s.answers.drop n := rfl
@[simp] theorem afterBus_draws (s : State) (n q : Nat) (f : Fsm) (es : List Event) (r : Response) :
    (afterBus s n q f es r).draws = s.draws + (n - s.answers.length) := rfl
@[simp] theorem answered_cfg (s : State) (r : Response) : (answered s r).cfg = s.cfg := rfl
@[simp] theorem answered_fb (s : State) (r : Response) : (answered s r).fb = s.fb := rfl
@[simp] theorem answered_fsm (s : State) (r : Response) : (answered s r).fsm = s.fsm := rfl
@[simp] theorem answered_seq (s : State) (r : Response) : (answered s r).seq = s.seq := rfl
@[simp] theorem answered_busy (s : State) (r : Response) : (answered s r).busy = false := rfl
@[simp] theorem answered_rstOut (s : State) (r : Response) : (answered s r).rstOut = s.rstOut := rfl
@[simp] theorem answered_requests (s : State) (r : Response) : (answered s r).requests = s.requests := rfl
@[simp] theorem answered_trace (s : State) (r : Response) : (answered s r).trace = s.trace ++ [.response r] := rfl
@[simp] theorem answered_answers (s : State) (r : Response) : (answered s r).answers = s.answers := rfl
@[simp] theorem answered_draws (s : State) (r : Response) : (answered s r).draws = s.draws := rfl

end Sys2Proof.Laws
end

