-- ==== Sys2Proof/Laws/Ops.lean ====
section
/-! SUPPORT. Everything the framer's operations can do, said once: one frame, and a list of control frames, with the
platform's answers as the premise. -/

namespace Sys2Proof.Laws

open Sys2Proof.Machine Sys2Proof.Safety

/-! ## The platform's answers -/

/-- The answers to come depend on the given ones and the draw count only. -/
theorem answerAt_congr {s t : State} (ha : s.answers = t.answers) (hd : s.draws = t.draws) (k : Nat) :
    answerAt s k = answerAt t k := by
  simp [answerAt, ha, hd]

/-- After one answer is used up, the k-th to come is the one that was after it. -/
theorem answerAt_takeAnswer (s : State) (k : Nat) : answerAt (takeAnswer s) k = answerAt s (k + 1) := by
  unfold answerAt
  cases h : s.answers with
  | nil => simp [h, show s.draws + 1 + k = s.draws + (k + 1) by omega]
  | cons a rest =>
    simp [h, show k + 1 - (rest.length + 1) = k - rest.length by omega,
      show 1 - (rest.length + 1) = 0 by omega]

@[simp] theorem answerAt_busTx (bytes : List Byte) (s : State) (k : Nat) :
    answerAt (busTx bytes s) k = answerAt s (k + 1) := by
  rw [← answerAt_takeAnswer]
  exact answerAt_congr (by simp) (by simp) k

@[simp] theorem answerAt_setSeq (n : Nat) (s : State) (k : Nat) : answerAt (setSeq n s) k = answerAt s k := rfl

@[simp] theorem answerAt_startOperation (s : State) (k : Nat) : answerAt (startOperation s) k = answerAt s k := rfl

@[simp] theorem answerAt_setFsm (f : Fsm) (s : State) (k : Nat) : answerAt (setFsm f s) k = answerAt s k := rfl

theorem allAck_mono {s : State} {n m : Nat} (h : allAck s n) (hm : m ≤ n) : allAck s m :=
  fun k hk => h k (Nat.lt_of_lt_of_le hk hm)

/-- What the platform does with the next `n` transactions: it ACKs them all, or it fails a first one. -/
theorem allAck_or_failsAt (s : State) (n : Nat) : allAck s n ∨ ∃ k, k < n ∧ failsAt s k := by
  induction n with
  | zero => exact .inl (fun k hk => absurd hk (Nat.not_lt_zero k))
  | succ n ih =>
    rcases ih with h | ⟨k, hk, h⟩
    · cases ha : answerAt s n with
      | ack =>
        refine .inl (fun k hk => ?_)
        rcases Nat.lt_succ_iff_lt_or_eq.1 hk with hlt | heq
        · exact h k hlt
        · exact heq ▸ ha
      | fail => exact .inr ⟨n, Nat.lt_succ_self n, h, ha⟩
    · exact .inr ⟨k, Nat.lt_succ_of_lt hk, h⟩

/-! ## One transaction -/

/-- The state after one transaction with answer `a`. -/
theorem sendFrame_ack {bytes : List Byte} {s : State} (h : answerAt s 0 = .ack) :
    sendFrame bytes s = .done (setSeq (s.seq + 1) (busTx bytes s)) := by
  simp [sendFrame, h]

theorem sendFrame_fail {bytes : List Byte} {s : State} (h : answerAt s 0 = .fail) :
    sendFrame bytes s = .raised (.bus s.seq) (busTx bytes s) := by
  simp [sendFrame, h]

@[simp] theorem andThen_done (s : State) (f : State → Result) : (Result.done s).andThen f = f s := rfl

@[simp] theorem andThen_raised (e : Err) (s : State) (f : State → Result) :
    (Result.raised e s).andThen f = .raised e s := rfl

/-! ## A list of control frames -/

/-- The state after `n` answers were used, with `seq` and further events as given; nothing else changes. -/
def sent (s : State) (n seq : Nat) (events : List Event) : State :=
  { s with
    seq := seq
    trace := s.trace ++ events
    answers := s.answers.drop n
    draws := s.draws + (n - s.answers.length) }

@[simp] theorem answerAt_sent (s : State) (n q : Nat) (events : List Event) (k : Nat) :
    answerAt (sent s n q events) k = answerAt s (n + k) := by
  simp only [answerAt, sent, List.getElem?_drop, List.length_drop]
  congr 2
  omega

/-- One more answer used up. -/
theorem takeAnswer_sent (s : State) (n q : Nat) (events : List Event) :
    takeAnswer (sent s n q events) = sent s (n + 1) q events := by
  unfold takeAnswer
  split
  · next hd =>
    have hl : s.answers.length ≤ n := List.drop_eq_nil_iff.1 hd
    simp only [sent, List.drop_eq_nil_of_le (Nat.le_succ_of_le hl), State.mk.injEq, true_and,
      List.drop_eq_nil_of_le hl]
    omega
  · next a rest hd =>
    have hl : n < s.answers.length := by
      rcases Nat.lt_or_ge n s.answers.length with hlt | hge
      · exact hlt
      · simp [sent, List.drop_eq_nil_of_le hge] at hd
    have hr : s.answers.drop (n + 1) = rest := by
      rw [← List.drop_drop]
      simp only [sent] at hd
      rw [hd]
      rfl
    simp only [sent, hr, State.mk.injEq, true_and]
    omega

/-- One more ACKed frame after `n` transactions. -/
theorem sendFrame_sent_ack {s : State} {n : Nat} (h : answerAt s n = .ack) (bytes : List Byte) (q : Nat)
    (events : List Event) :
    sendFrame bytes (sent s n q events) =
      .done (sent s (n + 1) (q + 1) (events ++ [.busTx s.cfg.addr bytes .ack])) := by
  have h0 : answerAt (sent s n q events) 0 = .ack := by simpa using h
  rw [sendFrame_ack h0]
  congr 1
  simp only [busTx, h0, takeAnswer_sent]
  simp [setSeq, emit, sent]

/-- A failing frame after `n` transactions. -/
theorem sendFrame_sent_fail {s : State} {n : Nat} (h : answerAt s n = .fail) (bytes : List Byte) (q : Nat)
    (events : List Event) :
    sendFrame bytes (sent s n q events) =
      .raised (.bus q) (sent s (n + 1) q (events ++ [.busTx s.cfg.addr bytes .fail])) := by
  have h0 : answerAt (sent s n q events) 0 = .fail := by simpa using h
  rw [sendFrame_fail h0]
  simp only [busTx, h0, takeAnswer_sent]
  simp [emit, sent]

theorem sent_cons (s : State) (bytes : List Byte) (n q : Nat) (events : List Event) (h : answerAt s 0 = .ack) :
    sent (setSeq (s.seq + 1) (busTx bytes s)) n q events =
      sent s (n + 1) q (.busTx s.cfg.addr bytes .ack :: events) := by
  simp only [sent, setSeq_cfg, setSeq_fb, setSeq_fsm, setSeq_busy, setSeq_rstOut, setSeq_requests, setSeq_trace,
    setSeq_answers, setSeq_draws, busTx_cfg, busTx_fb, busTx_fsm, busTx_busy, busTx_rstOut, busTx_requests,
    busTx_trace, busTx_answers, busTx_draws, h, List.drop_drop, List.append_assoc, List.singleton_append,
    List.length_drop, State.mk.injEq, true_and]
  exact ⟨by rw [Nat.add_comm], by omega⟩

/-- All frames ACKed: the operation goes on, `seq` has counted them, each frame is on the bus. -/
theorem sendCmds_allAck (bytes : List Byte) (s : State) (h : allAck s bytes.length) :
    sendCmds bytes s = .done (sent s bytes.length (s.seq + bytes.length) (ackedFrames s.cfg bytes)) := by
  induction bytes generalizing s with
  | nil => simp [sendCmds, sent, ackedFrames]
  | cons b rest ih =>
    have h0 : answerAt s 0 = .ack := h 0 (by simp)
    have hrest : allAck (setSeq (s.seq + 1) (busTx (controlFrame b) s)) rest.length := by
      intro k hk
      simpa using h (k + 1) (by simpa using hk)
    rw [sendCmds, sendCmd, sendFrame_ack h0, andThen_done, ih _ hrest, sent_cons _ _ _ _ _ h0]
    simp [ackedFrames, controlFrame, Config.cmdMarker, Nat.add_assoc, Nat.add_comm 1]

/-- The first FAIL at position `k`: ERR_BUS with the count so far, and nothing after it is sent. -/
theorem sendCmds_failsAt (bytes : List Byte) (s : State) (k : Nat) (hk : k < bytes.length) (h : failsAt s k) :
    sendCmds bytes s =
      .raised (.bus (s.seq + k)) (sent s (k + 1) (s.seq + k) (failedFrames s.cfg bytes k)) := by
  induction k generalizing bytes s with
  | zero =>
    cases bytes with
    | nil => simp at hk
    | cons b rest =>
      have h0 : answerAt s 0 = .fail := h.2
      rw [sendCmds, sendCmd, sendFrame_fail h0, andThen_raised]
      congr 1
      simp only [sent, failedFrames, ackedFrames, busTx, emit, takeAnswer, h0, controlFrame, Config.cmdMarker]
      cases s.answers <;> simp
  | succ k ih =>
    cases bytes with
    | nil => simp at hk
    | cons b rest =>
      have h0 : answerAt s 0 = .ack := h.1 0 (Nat.succ_pos k)
      have hrest : failsAt (setSeq (s.seq + 1) (busTx (controlFrame b) s)) k :=
        ⟨fun j hj => by simpa using h.1 (j + 1) (Nat.succ_lt_succ hj), by simpa using h.2⟩
      rw [sendCmds, sendCmd, sendFrame_ack h0, andThen_done, ih rest _ (by simpa using hk) hrest,
        sent_cons _ _ _ _ _ h0]
      simp [failedFrames, ackedFrames, controlFrame, Config.cmdMarker, Nat.add_assoc, Nat.add_comm 1]

/-- Everything a list of control frames can do: all ACKed, or stopped at a first FAIL. -/
theorem sendCmds_cases (bytes : List Byte) (s : State) :
    (allAck s bytes.length ∧
      sendCmds bytes s = .done (sent s bytes.length (s.seq + bytes.length) (ackedFrames s.cfg bytes))) ∨
    ∃ k, k < bytes.length ∧ failsAt s k ∧
      sendCmds bytes s =
        .raised (.bus (s.seq + k)) (sent s (k + 1) (s.seq + k) (failedFrames s.cfg bytes k)) := by
  rcases allAck_or_failsAt s bytes.length with h | ⟨k, hk, h⟩
  · exact .inl ⟨h, sendCmds_allAck bytes s h⟩
  · exact .inr ⟨k, hk, h, sendCmds_failsAt bytes s k hk h⟩

/-- One control frame is a list of one. -/
theorem sendCmd_eq_sendCmds (b : Byte) (s : State) : sendCmd b s = sendCmds [b] s := by
  simp only [sendCmds]
  cases sendCmd b s <;> rfl

/-- Frames sent after frames are the frames of the joined list. -/
theorem sendCmds_append (xs ys : List Byte) (s : State) :
    sendCmds (xs ++ ys) s = (sendCmds xs s).andThen (sendCmds ys) := by
  induction xs generalizing s with
  | nil => rfl
  | cons b rest ih =>
    simp only [List.cons_append, sendCmds]
    cases sendCmd b s with
    | done t => exact ih t
    | raised e t => rfl

/-! ## The end of an operation -/

/-- An operation ends in a next state, whatever it did. -/
@[simp] theorem finish_done (s : State) : finish (.done s) = .next (respond Response.ok s) := rfl

@[simp] theorem finish_raised (e : Err) (s : State) : finish (.raised e s) = .next (respond e.response s) := rfl

/-- What acceptance takes: the first waiting word, with the port busy from then on. -/
theorem accept_eq_some {s t : State} {w : Request} (h : accept s = some (w, t)) :
    ∃ rest, s.busy = false ∧ s.requests = w :: rest ∧ t = { s with requests := rest, busy := true } := by
  unfold accept at h
  split at h
  · next hb hr =>
    obtain ⟨rfl, rfl⟩ := Prod.mk.inj (Option.some.inj h)
    exact ⟨_, hb, hr, rfl⟩
  · cases h

end Sys2Proof.Laws
end

