-- ==== Sys2Proof/Laws/Operands.lean ====
section
/-! SUPPORT. The operand forms in plain numbers: the geometry, the range checks, and the framer's list of control frames
from the state in which an operation begins. -/

namespace Sys2Proof.Laws

open Sys2Proof.Machine Sys2Proof.Safety

/-! ## Geometry -/

theorem rows_cases (c : Cfg) : c.height.rows = 32 ∨ c.height.rows = 64 := by
  cases c.height <;> simp [Height.rows]

theorem pages_cases (c : Cfg) : c.pages = 4 ∨ c.pages = 8 := by
  unfold Cfg.pages
  cases c.height <;> simp [Height.rows]

theorem pages_mul (c : Cfg) : (c.pages : Int) * 8 = c.height.rows := by
  unfold Cfg.pages
  cases c.height <;> rfl

theorem fbLen_eq (c : Cfg) : c.fbLen = 1 + c.pages * 128 := rfl

theorem lastColumn_eq : lastColumn = 127 := rfl

theorem lastPage_eq (c : Cfg) : c.lastPage = (c.height.rows : Int) / 8 - 1 := rfl

/-! ## Range checks -/

theorem inRange_iff (c : Cfg) (x y : Int) : inRange c x y = true ↔ onPanel c x y := by
  unfold inRange onPanel
  rw [pages_mul]
  exact decide_eq_true_iff

theorem byteInRange_iff (c : Cfg) (i : Int) : byteInRange c i = true ↔ 1 ≤ i ∧ i < (c.fbLen : Int) :=
  decide_eq_true_iff

theorem windowStop_set {c : Byte} (h : c.getLsbD 0 = true) (b bound : Int) : windowStop c b bound = bound := by
  unfold windowStop dfltFlag
  rw [h]
  rfl

theorem windowStop_clear {c : Byte} (h : c.getLsbD 0 = false) (b bound : Int) : windowStop c b bound = b := by
  unfold windowStop dfltFlag
  rw [h]
  rfl

/-! ## An operation's frames, from `seq <- 0` on -/

/-- All frames ACKed. -/
theorem sendCmds_begun_allAck {s : State} {n : Nat} (bytes : List Byte) (hn : bytes.length = n) (h : allAck s n) :
    sendCmds bytes (setSeq 0 s) = .done (sent (setSeq 0 s) n n (ackedFrames s.cfg bytes)) := by
  subst hn
  rw [sendCmds_allAck bytes (setSeq 0 s) h]
  simp

/-- The frame at position `k` is the first to fail. -/
theorem sendCmds_begun_failsAt {s : State} {k : Nat} (bytes : List Byte) (hk : k < bytes.length) (h : failsAt s k) :
    sendCmds bytes (setSeq 0 s) = .raised (.bus k) (sent (setSeq 0 s) (k + 1) k (failedFrames s.cfg bytes k)) := by
  rw [sendCmds_failsAt bytes (setSeq 0 s) k hk h]
  simp

end Sys2Proof.Laws
end

