-- ==== Sys2Proof/Laws/Clients.lean ====
section
/-! SUPPORT. The clients' shared operations: what a loop keeps, the fields of a decode session after each of its updates,
and everything one read of the file can do. -/

namespace Sys2Proof.Laws

open Sys2Proof.Machine Sys2Proof.Machine.Clients Sys2Proof.Safety

/-! ## Going on and looping -/

@[simp] theorem proceed_none {σ : Type} (t : σ) (rest : σ → σ × Option ClientError) :
    proceed (t, none) rest = rest t := rfl

@[simp] theorem proceed_some {σ : Type} (t : σ) (e : ClientError) (rest : σ → σ × Option ClientError) :
    proceed (t, some e) rest = (t, some e) := rfl

@[simp] theorem loop_nil {α σ : Type} (body : α → σ → σ × Option ClientError) (s : σ) : loop body [] s = (s, none) := rfl

theorem loop_cons {α σ : Type} (body : α → σ → σ × Option ClientError) (x : α) (xs : List α) (s : σ) :
    loop body (x :: xs) s = proceed (body x s) (loop body xs) := rfl

/-- A loop over a joined list is a loop over its parts. -/
theorem loop_append {α σ : Type} (body : α → σ → σ × Option ClientError) (xs ys : List α) (s : σ) :
    loop body (xs ++ ys) s = proceed (loop body xs s) (loop body ys) := by
  induction xs generalizing s with
  | nil => rfl
  | cons x xs ih =>
    rw [List.cons_append, loop_cons, loop_cons]
    cases body x s with
    | mk t e =>
      cases e with
      | none => exact ih t
      | some e => rfl

/-- What both halves keep, the whole keeps, however it ends. -/
theorem proceed_keeps {σ : Type} {P : σ → Prop} {r : σ × Option ClientError} {rest : σ → σ × Option ClientError}
    (hr : P r.1) (hrest : ∀ t, P t → P (rest t).1) : P (proceed r rest).1 := by
  obtain ⟨t, e⟩ := r
  cases e with
  | none => exact hrest t hr
  | some e => exact hr

/-- What the body keeps, the loop keeps, however it ends. -/
theorem loop_keeps {α σ : Type} {P : σ → Prop} {body : α → σ → σ × Option ClientError} (xs : List α) {s : σ}
    (hbody : ∀ x s, P s → P (body x s).1) (hs : P s) : P (loop body xs s).1 := by
  induction xs generalizing s with
  | nil => exact hs
  | cons x xs ih => exact proceed_keeps (hbody x s hs) (fun t ht => ih ht)

/-- A procedure that ends without error ran both its halves. -/
theorem proceed_eq_none {σ : Type} {r : σ × Option ClientError} {rest : σ → σ × Option ClientError} {u : σ}
    (h : proceed r rest = (u, none)) : ∃ t, r = (t, none) ∧ rest t = (u, none) := by
  obtain ⟨t, e⟩ := r
  cases e with
  | none => exact ⟨t, rfl, h⟩
  | some e => cases h

/-! ## A decode session after each update -/

@[simp] theorem note_block (e : Use) (u : DecodeSession) : (note e u).block = u.block := rfl
@[simp] theorem note_file (e : Use) (u : DecodeSession) : (note e u).file = u.file := rfl
@[simp] theorem note_fileOpen (e : Use) (u : DecodeSession) : (note e u).fileOpen = u.fileOpen := rfl
@[simp] theorem note_blockOpen (e : Use) (u : DecodeSession) : (note e u).blockOpen = u.blockOpen := rfl
@[simp] theorem note_readAnswers (e : Use) (u : DecodeSession) : (note e u).readAnswers = u.readAnswers := rfl
@[simp] theorem note_readDraws (e : Use) (u : DecodeSession) : (note e u).readDraws = u.readDraws := rfl
@[simp] theorem note_uses (e : Use) (u : DecodeSession) : (note e u).uses = u.uses ++ [e] := rfl

@[simp] theorem acquire_block (u : DecodeSession) : (acquire u).block = u.block := rfl
@[simp] theorem acquire_file (u : DecodeSession) : (acquire u).file = u.file := rfl
@[simp] theorem acquire_fileOpen (u : DecodeSession) : (acquire u).fileOpen = true := rfl
@[simp] theorem acquire_blockOpen (u : DecodeSession) : (acquire u).blockOpen = true := rfl
@[simp] theorem acquire_readAnswers (u : DecodeSession) : (acquire u).readAnswers = u.readAnswers := rfl
@[simp] theorem acquire_readDraws (u : DecodeSession) : (acquire u).readDraws = u.readDraws := rfl
@[simp] theorem acquire_uses (u : DecodeSession) : (acquire u).uses = u.uses ++ [.opened .file, .opened .block] := by
  simp [acquire, note, setOpen]

@[simp] theorem release_block (u : DecodeSession) : (release u).block = u.block := rfl
@[simp] theorem release_file (u : DecodeSession) : (release u).file = u.file := rfl
@[simp] theorem release_fileOpen (u : DecodeSession) : (release u).fileOpen = false := rfl
@[simp] theorem release_blockOpen (u : DecodeSession) : (release u).blockOpen = false := rfl
@[simp] theorem release_readAnswers (u : DecodeSession) : (release u).readAnswers = u.readAnswers := rfl
@[simp] theorem release_readDraws (u : DecodeSession) : (release u).readDraws = u.readDraws := rfl
@[simp] theorem release_uses (u : DecodeSession) :
    (release u).uses = u.uses ++ [.released .block, .released .file] := by
  simp [release, note, setOpen]

@[simp] theorem takeReadAnswer_block (u : DecodeSession) : (takeReadAnswer u).block = u.block := by
  unfold takeReadAnswer; split <;> rfl
@[simp] theorem takeReadAnswer_file (u : DecodeSession) : (takeReadAnswer u).file = u.file := by
  unfold takeReadAnswer; split <;> rfl
@[simp] theorem takeReadAnswer_fileOpen (u : DecodeSession) : (takeReadAnswer u).fileOpen = u.fileOpen := by
  unfold takeReadAnswer; split <;> rfl
@[simp] theorem takeReadAnswer_blockOpen (u : DecodeSession) : (takeReadAnswer u).blockOpen = u.blockOpen := by
  unfold takeReadAnswer; split <;> rfl
@[simp] theorem takeReadAnswer_uses (u : DecodeSession) : (takeReadAnswer u).uses = u.uses := by
  unfold takeReadAnswer; split <;> rfl

/-! ## The reads of the file -/

/-- The read answers to come depend on the given ones and the draw count only. -/
theorem readAnswerAt_congr {u v : DecodeSession} (ha : u.readAnswers = v.readAnswers) (hd : u.readDraws = v.readDraws)
    (k : Nat) : readAnswerAt u k = readAnswerAt v k := by
  simp [readAnswerAt, ha, hd]

/-- After one read answer is used up, the k-th to come is the one that was after it. -/
theorem readAnswerAt_takeReadAnswer (u : DecodeSession) (k : Nat) :
    readAnswerAt (takeReadAnswer u) k = readAnswerAt u (k + 1) := by
  unfold readAnswerAt takeReadAnswer
  cases h : u.readAnswers with
  | nil => simp [show u.readDraws + 1 + k = u.readDraws + (k + 1) by omega]
  | cons a rest => simp [show k + 1 - (rest.length + 1) = k - rest.length by omega]

@[simp] theorem readAt_block (o : Nat) (u : DecodeSession) : (readAt o u).1.block = u.block := by simp [readAt]
@[simp] theorem readAt_file (o : Nat) (u : DecodeSession) : (readAt o u).1.file = u.file := by simp [readAt]
@[simp] theorem readAt_fileOpen (o : Nat) (u : DecodeSession) : (readAt o u).1.fileOpen = u.fileOpen := by simp [readAt]
@[simp] theorem readAt_blockOpen (o : Nat) (u : DecodeSession) : (readAt o u).1.blockOpen = u.blockOpen := by
  simp [readAt]
@[simp] theorem readAt_uses (o : Nat) (u : DecodeSession) :
    (readAt o u).1.uses = u.uses ++ [.read o (readOutcome o u)] := by
  simp [readAt]

/-- Everything one read can do: it is done, and the byte is there, or it fails with CERR_IO. -/
theorem readAt_cases (o : Nat) (u : DecodeSession) :
    (readOutcome o u = .done ∧ u.fileOpen = true ∧ o < u.file.length ∧ readAnswerAt u 0 = .done ∧ (readAt o u).2 = none) ∨
    (readOutcome o u = .failed ∧ (readAt o u).2 = some .io) := by
  cases h : readOutcome o u with
  | failed => exact .inr ⟨rfl, by simp [readAt, h]⟩
  | done =>
    refine .inl ⟨rfl, ?_⟩
    have hr : (readAt o u).2 = none := by simp [readAt, h]
    unfold readOutcome at h
    split at h
    · next hc => exact ⟨hc.1, hc.2, h, hr⟩
    · cases h

/-- A read of a byte that the file has, answered by the platform, is done. -/
theorem readAt_done {o : Nat} {u : DecodeSession} {n : Nat} (hopen : u.fileOpen = true) (ho : o < u.file.length)
    (hr : readsDone u (n + 1)) : (readAt o u).2 = none ∧ readsDone (readAt o u).1 n := by
  have h : readOutcome o u = .done := by
    unfold readOutcome
    rw [if_pos ⟨hopen, ho⟩]
    exact hr 0 (Nat.succ_pos n)
  refine ⟨by simp [readAt, h], fun k hk => ?_⟩
  rw [← hr (k + 1) (Nat.succ_lt_succ hk), ← readAnswerAt_takeReadAnswer]
  exact readAnswerAt_congr rfl rfl k

/-! ## Requests of the decode -/

theorem request_open {i : Instr} {u : DecodeSession} (h : u.blockOpen = true) :
    request i u = (note (.requested i) { u with block := (issue i u.block).1 }, (issue i u.block).2) := by
  simp [request, h]

/-- A request, performed, in terms of the block's next state. -/
theorem issue_eq {i : Instr} {s t : State} {r : Response} (h : exec i (startOperation s) = .next t)
    (hl : t.trace.getLast? = some (.response r)) :
    issue i s = (t, if r.status = 0 then none else some (.block r)) := by
  simp [issue, h, hl]

end Sys2Proof.Laws
end

