-- ==== Sys2Proof/Laws/Decode.lean ====
section
/-! SUPPORT. What the fields of a packed request word are (30_encoding.md R56, R57). -/

namespace Sys2Proof.Laws

@[simp] theorem opField_pack (op : Byte) (a b : Int) (c : Byte) : (packRequest op a b c).opField = op := by
  apply BitVec.eq_of_getLsbD_eq
  intro k hk
  simp (disch := omega) [Request.opField, packRequest, BitVec.getLsbD_of_ge, show ¬ 40 + k < 40 by omega, show ¬ 40 + k < 24 by omega, show ¬ 40 + k < 8 by omega]

theorem aBits_pack (op : Byte) (a b : Int) (c : Byte) :
    (packRequest op a b c).extractLsb' 24 16 = BitVec.ofInt 16 a := by
  apply BitVec.eq_of_getLsbD_eq
  intro k hk
  simp (disch := omega) [packRequest, BitVec.getLsbD_of_ge, show 24 + k < 40 by omega, show ¬ 24 + k < 24 by omega, show ¬ 24 + k < 8 by omega]

theorem bBits_pack (op : Byte) (a b : Int) (c : Byte) :
    (packRequest op a b c).extractLsb' 8 16 = BitVec.ofInt 16 b := by
  apply BitVec.eq_of_getLsbD_eq
  intro k hk
  simp (disch := omega) [packRequest, BitVec.getLsbD_of_ge, show 8 + k < 40 by omega, show 8 + k < 24 by omega, show ¬ 8 + k < 8 by omega]

@[simp] theorem cField_pack (op : Byte) (a b : Int) (c : Byte) : (packRequest op a b c).cField = c := by
  apply BitVec.eq_of_getLsbD_eq
  intro k hk
  simp (disch := omega) [Request.cField, packRequest, hk, show k < 40 by omega, show k < 24 by omega]

/-- A value that fits the signed field is read back unchanged. -/
theorem signed_of_fits {v : Int} (h : operandFits v = true) : (BitVec.ofInt 16 v).toInt = v := by
  simp only [operandFits, decide_eq_true_eq] at h
  rw [BitVec.toInt_ofInt]
  exact Int.bmod_eq_of_le (by omega) (by omega)

theorem aField_pack (op : Byte) {a : Int} (b : Int) (c : Byte) (h : operandFits a = true) :
    (packRequest op a b c).aField = a := by
  rw [Request.aField, aBits_pack, signed_of_fits h]

theorem bField_pack (op : Byte) (a : Int) {b : Int} (c : Byte) (h : operandFits b = true) :
    (packRequest op a b c).bField = b := by
  rw [Request.bField, bBits_pack, signed_of_fits h]

/-- Every operand a word carries fits its field. -/
theorem fits_aField (w : Request) : operandFits w.aField = true := by
  have h1 := BitVec.le_toInt (w.extractLsb' 24 16)
  have h2 := BitVec.toInt_lt (x := w.extractLsb' 24 16)
  exact decide_eq_true (by simp only [Request.aField]; omega)

theorem fits_bField (w : Request) : operandFits w.bField = true := by
  have h1 := BitVec.le_toInt (w.extractLsb' 8 16)
  have h2 := BitVec.toInt_lt (x := w.extractLsb' 8 16)
  exact decide_eq_true (by simp only [Request.bField]; omega)

end Sys2Proof.Laws
end

