-- ==== Sys2Proof/Laws/PerInstr.lean ====
section
/-! SUPPORT. Statements made of every instruction as syntax, one lemma per constructor. -/

namespace Sys2Proof.Laws.OpcodeField

/-- The OP field of an instruction's word is its row's operation code (30_encoding.md R58). -/
def Statement (i : Instr) : Prop := (encode i).opField = i.opcode

theorem clear : Statement .clear := opField_pack _ _ _ _
theorem setpix (x y : Int) (c : Byte) : Statement (.setpix x y c) := opField_pack _ _ _ _
theorem pixel (x y : Int) (c : Byte) : Statement (.pixel x y c) := opField_pack _ _ _ _
theorem wrbyte (i : Int) (v : Byte) : Statement (.wrbyte i v) := opField_pack _ _ _ _
theorem wrcmd (c : Byte) : Statement (.wrcmd c) := opField_pack _ _ _ _
theorem display : Statement .display := opField_pack _ _ _ _
theorem poweron : Statement .poweron := opField_pack _ _ _ _
theorem initdisp : Statement .initdisp := opField_pack _ _ _ _
theorem poweroff : Statement .poweroff := opField_pack _ _ _ _
theorem contrast (c : Byte) : Statement (.contrast c) := opField_pack _ _ _ _
theorem invert (c : Byte) : Statement (.invert c) := opField_pack _ _ _ _
theorem setcols (start stop : Int) (c : Byte) : Statement (.setcols start stop c) := opField_pack _ _ _ _
theorem setpages (start stop : Int) (c : Byte) : Statement (.setpages start stop c) := opField_pack _ _ _ _

end Sys2Proof.Laws.OpcodeField
end

