-- ==== Sys2Proof/Tests/Slice0.lean ====
section
/-! SUPPORT. The model's own tests, one step or one function each, with the expected values of spec/95_test_vectors.md
(their ids in the comments) or computed by hand from the rule named; and for each statement with hypotheses a witness that
meets them. -/

namespace Sys2Proof.Tests

open Sys2Proof.Machine Sys2Proof.Safety

/-! ## Helpers -/

/-- The illustrative configuration bytes of 93_implementation_defined.md G9 (H = 64, internal supply). -/
def illustrative : InitParams :=
  { clkdiv := 0x80, mux := 0x3F, startline := 0x40, chargepump := 0x14, addrmode := 0x00, compins := 0x12,
    contrast0 := 0xCF, precharge := 0xF1 }

def config (h : Height) (rst : Bool) : Cfg :=
  { height := h, extSupply := false, addr := 0x3C, hasRst := rst, initParams := .ofFn (fun _ _ => illustrative),
    tPowerMs := 100 }

/-- The block after construction, the platform's coming answers given. -/
def ready (h : Height) (rst : Bool) (answers : List BusAnswer) : State :=
  { State.ofCfg (config h rst) with rstOut := if rst then some .low else none, answers := answers }

/-- The next state of an outcome, if it is one. -/
def after : Host.Outcome State Fault Refusal → Option State
  | .next t => some t
  | .fault _ => none
  | .refused _ => none

/-- What an instruction shows on the output ports from a state that has shown nothing. -/
def shows (i : Instr) (s : State) : Option (List Event) := (after (exec i s)).map State.trace

/-- The byte at an index after an instruction, and the last event. -/
def byteAfter (i : Instr) (s : State) (a : Nat) : Option (Byte × Option Event) :=
  (after (exec i s)).map (fun t => (t.fb.read a, t.trace.getLast?))

def fsmAfter (i : Instr) (s : State) : Option Fsm := (after (exec i s)).map State.fsm

def ack (b : Byte) : Event := .busTx 0x3C [0x80, b] .ack

def fail (b : Byte) : Event := .busTx 0x3C [0x80, b] .fail

def ok : Event := .response { status := 0x00, info := .none }

def acks (n : Nat) : List BusAnswer := List.replicate n .ack

/-- `n` ACKs, then one FAIL. -/
def acksThenFail (n : Nat) : List BusAnswer := List.replicate n .ack ++ [.fail]

/-! ## WellFormed: one ill-formed term for each check (30_encoding.md R57, R71) -/

theorem test_wf_setpix_x : (Instr.setpix 32768 0 1).wellFormed = false := by decide
theorem test_wf_setpix_y : (Instr.setpix 0 (-32769) 1).wellFormed = false := by decide
theorem test_wf_pixel_x : (Instr.pixel (-32769) 0 0).wellFormed = false := by decide
theorem test_wf_pixel_y : (Instr.pixel 0 32768 0).wellFormed = false := by decide
theorem test_wf_wrbyte_i : (Instr.wrbyte 32768 0).wellFormed = false := by decide
theorem test_wf_setcols_start : (Instr.setcols 32768 0 0).wellFormed = false := by decide
theorem test_wf_setcols_stop : (Instr.setcols 0 (-32769) 0).wellFormed = false := by decide
theorem test_wf_setpages_start : (Instr.setpages (-32769) 0 0).wellFormed = false := by decide
theorem test_wf_setpages_stop : (Instr.setpages 0 32768 0).wellFormed = false := by decide
theorem test_wf_bounds : (Instr.setpix (-32768) 32767 255).wellFormed = true := by decide

/-! ## Decoding: a word of each row, written out as OP, A, B, C (30_encoding.md R56, R58) -/

-- V-E15
theorem test_decode_clear : decode 0x01123456789A = .instr .clear := by decide
-- V-E1, in bits: OP 00000010, A 10, B 20, C 1
theorem test_decode_setpix :
    decode 0b000000100000000000001010000000000001010000000001 = .instr (.setpix 10 20 1) := by decide
-- V-E3
theorem test_decode_setpix_lowest : decode 0x020000800001 = .instr (.setpix 0 (-32768) 1) := by decide
-- V-E2, in bits: OP 00000011, A all ones, B 0, C 0
theorem test_decode_pixel :
    decode 0b000000111111111111111111000000000000000000000000 = .instr (.pixel (-1) 0 0) := by decide
-- P4's first word, in bits: OP 00000100, A 1, B 0, C 0x21
theorem test_decode_wrbyte :
    decode 0b000001000000000000000001000000000000000000100001 = .instr (.wrbyte 1 0x21) := by decide
-- V-E10
theorem test_decode_wrcmd : decode 0x1000000000AF = .instr (.wrcmd 0xAF) := by decide
-- P1 step 9, in bits: OP 00010001
theorem test_decode_display :
    decode 0b000100010000000000000000000000000000000000000000 = .instr .display := by decide
-- P1 step 1
theorem test_decode_poweron : decode 0x200000000000 = .instr .poweron := by decide
-- P1 step 2
theorem test_decode_initdisp : decode 0x210000000000 = .instr .initdisp := by decide
-- P3 step 10
theorem test_decode_poweroff : decode 0x220000000000 = .instr .poweroff := by decide
-- P3 step 9, in bits: OP 00100011, A 0, B 0, C 0x7F
theorem test_decode_contrast :
    decode 0b001000110000000000000000000000000000000001111111 = .instr (.contrast 0x7F) := by decide
-- V-E8
theorem test_decode_invert : decode 0x240000000001 = .instr pseudoInvert := by decide
-- V-E5, in bits: OP 00110000, A 200, B -5, C 0
theorem test_decode_setcols :
    decode 0b001100000000000011001000111111111111101100000000 = .instr (.setcols 200 (-5) 0) := by decide
-- V-E6
theorem test_decode_setpages : decode 0x310002000001 = .instr (pseudoSetpages 2) := by decide
-- V-E14, V-E12, V-E13
theorem test_decode_illegal :
    decode 0x050007000707 = .illegalOp 0x05 ∧ decode 0 = .illegalOp 0x00 ∧ decode 0xFF0000000000 = .illegalOp 0xFF := by
  decide
-- V-E7, V-E9, V-E16 and the word formula of R71
theorem test_encode_words :
    encode (pseudoSetcols 127) = 0x30007F000001 ∧ encode (pseudoPixon 3 10) = 0x020003000A01 ∧
    encode (pseudoPixoff 3 10) = 0x020003000A00 ∧ encode (.setpix 3 10 2) = 0x020003000A02 := by decide
theorem test_assemble_refuses : assemble 0x02 32768 0 0 = none ∧ assemble 0x02 0 0 256 = none := by decide
theorem test_table_word : decodeTableWord 48 0x02000A001401 = some (.setpix 10 20 1) := by decide
theorem test_table_word_illegal : decodeTableWord 48 0 = none := by decide

/-! ## The mapper and the geometry (20_memory.md) -/

-- V-M1 to V-M4
theorem test_map_page_edges :
    pixMap 0 0 = (1, 0x01) ∧ pixMap 0 7 = (1, 0x80) ∧ pixMap 0 8 = (129, 0x01) ∧ pixMap 127 0 = (128, 0x01) := by decide
-- V-M5 to V-M8
theorem test_map_inside :
    pixMap 127 63 = (1024, 0x80) ∧ pixMap 3 10 = (132, 0x04) ∧ pixMap 64 33 = (577, 0x02) ∧
      pixMap 127 31 = (512, 0x80) := by decide
-- V-M9
theorem test_range_height :
    inRange (config .h32 false) 0 32 = false ∧ inRange (config .h64 false) 0 32 = true := by decide
-- V-M10, V-M11
theorem test_fbLen : (config .h32 false).fbLen = 513 ∧ (config .h64 false).fbLen = 1025 := by decide
theorem test_memory_stays_canonical :
    (((Memory.write [] 5 0xFF).write 3 1).write 5 0) = [(3, 1)] ∧ Memory.write [] 0 0x40 = [] := by decide

/-! ## Frame-buffer operations (40_buffer.md) -/

-- V-B1
theorem test_clear :
    byteAfter .clear { ready .h32 false [] with fb := [(0, 0x7F), (5, 0xFF), (512, 0x12)] } 0 = some (0x40, some ok) ∧
    byteAfter .clear { ready .h32 false [] with fb := [(5, 0xFF), (512, 0x12)] } 512 = some (0, some ok) := by decide
-- V-B8
theorem test_setpix_sets : byteAfter (.setpix 3 10 2) (ready .h64 false []) 132 = some (0x04, some ok) := by decide
-- V-B5
theorem test_setpix_clears :
    byteAfter (.setpix 3 10 0) { ready .h64 false [] with fb := [(132, 0xFF)] } 132 = some (0xFB, some ok) := by decide
-- V-B12
theorem test_pixel_sets :
    byteAfter (.pixel 5 9 0) { ready .h64 false [] with fb := [(134, 0xFD)] } 134 = some (0xFF, some ok) := by decide
-- V-B20
theorem test_pixel_range :
    shows (.pixel 0 (-32768) 0) (ready .h64 false []) =
      some [.response { status := 0x02, info := .pixel 0 (-32768) }] := by decide
-- V-B23
theorem test_wrbyte : byteAfter (.wrbyte 512 0x81) (ready .h32 false []) 512 = some (0x81, some ok) := by decide
-- V-B22, V-B24
theorem test_wrbyte_range :
    shows (.wrbyte 0 0xFF) (ready .h32 false []) = some [.response { status := 0x03, info := .index 0 }] ∧
    shows (.wrbyte 513 0x81) (ready .h32 false []) = some [.response { status := 0x03, info := .index 513 }] := by decide

/-! ## The framer (41_protocol.md) -/

-- V-P1, V-P3
theorem test_wrcmd :
    shows (.wrcmd 0xAF) (ready .h32 false [.ack]) = some [ack 0xAF, ok] ∧
    shows (.wrcmd 0xAE) (ready .h32 false [.fail]) =
      some [fail 0xAE, .response { status := 0x04, info := .acked 0 }] := by decide
-- V-P7
theorem test_display_fails :
    shows .display (ready .h32 false (acksThenFail 3)) =
      some [ack 0x21, ack 0x00, ack 0x7F, fail 0x22, .response { status := 0x04, info := .acked 3 }] := by decide
-- V-P4
set_option maxRecDepth 20000 in
theorem test_display :
    shows .display (ready .h32 false (acks 7)) =
      some [ack 0x21, ack 0x00, ack 0x7F, ack 0x22, ack 0x00, ack 0x03,
        .busTx 0x3C (0x40 :: List.replicate 512 0x00) .ack, ok] := by
  rfl

/-! ## The initialization sequence (42_init_sequence.md) -/

-- V-I1
theorem test_poweron_delay : shows .poweron (ready .h64 false []) = some [.delay 100, ok] := by decide
-- V-I2
theorem test_poweron_pulse :
    shows .poweron (ready .h64 true []) =
      some [.rstOut .high, .delay 10, .rstOut .low, .delay 1, .rstOut .high, .delay 10, ok] := by decide
-- V-I8
theorem test_initdisp :
    shows .initdisp (ready .h64 false (acks 24)) =
      some (([0xAE, 0xD5, 0x80, 0xA8, 0x3F, 0xD3, 0x00, 0x40, 0x8D, 0x14, 0x20, 0x00, 0xA0, 0xC0, 0xDA, 0x12, 0x81,
        0xCF, 0xD9, 0xF1, 0xA4, 0xA6, 0x2E, 0xAF] : List Byte).map ack ++ [ok]) := by decide
-- V-I4, V-I5, V-I6
theorem test_initdisp_fsm :
    fsmAfter .initdisp { ready .h64 false (acks 24) with fsm := .poweringOn } = some .active ∧
    fsmAfter .initdisp { ready .h64 false (acksThenFail 5) with fsm := .poweringOn } = some .poweringOn ∧
    fsmAfter .initdisp { ready .h64 false (acksThenFail 23) with fsm := .poweringOn } = some .initialized := by decide
-- V-I9, V-I10
theorem test_poweroff_fsm :
    fsmAfter .poweroff { ready .h64 false [.ack] with fsm := .active } = some .off ∧
    fsmAfter .poweroff { ready .h64 false [.fail] with fsm := .active } = some .active := by decide
-- V-I9
theorem test_poweroff : shows .poweroff (ready .h64 false [.ack]) = some [ack 0xAE, ok] := by decide
-- V-I14
theorem test_contrast :
    shows (.contrast 0x7F) (ready .h64 false [.ack, .fail]) =
      some [ack 0x81, fail 0x7F, .response { status := 0x04, info := .acked 1 }] := by decide
-- V-I19
theorem test_invert :
    shows (.invert 0x80) (ready .h64 false [.ack]) = some [ack 0xA7, ok] ∧
    shows (.invert 0) (ready .h64 false [.ack]) = some [ack 0xA6, ok] := by decide
-- V-I15, V-I16, V-I18, V-I20
theorem test_invert_fsm :
    fsmAfter (.invert 1) { ready .h64 false [.ack] with fsm := .active } = some .inverted ∧
    fsmAfter (.invert 0) { ready .h64 false [.ack] with fsm := .inverted } = some .active ∧
    fsmAfter (.invert 1) { ready .h64 false [.ack] with fsm := .initialized } = some .initialized ∧
    fsmAfter (.invert 1) { ready .h64 false [.fail] with fsm := .active } = some .active := by decide
-- 10_state.md R24
theorem test_fsm_codes :
    [Fsm.off, .poweringOn, .initialized, .active, .inverted].map Fsm.code = [0, 1, 2, 3, 4] := by decide

/-! ## The window setters (43_window.md) -/

-- V-W1, V-W4
theorem test_setcols_errors :
    shows (.setcols 5 3 0) (ready .h32 false []) =
      some [.response { status := 0x11, info := .window .col .stop 3 5 127 }] ∧
    shows (.setcols 200 (-5) 0) (ready .h32 false []) =
      some [.response { status := 0x10, info := .window .col .start 200 0 127 }] := by decide
-- V-W8, V-W10
theorem test_setcols :
    shows (.setcols 5 3 1) (ready .h32 false (acks 3)) = some [ack 0x21, ack 0x05, ack 0x7F, ok] ∧
    shows (.setcols 10 20 0) (ready .h32 false (acksThenFail 2)) =
      some [ack 0x21, ack 0x0A, fail 0x14, .response { status := 0x04, info := .acked 2 }] := by decide
-- V-W11, V-W13
theorem test_setpages_errors :
    shows (.setpages 0 4 0) (ready .h32 false []) =
      some [.response { status := 0x13, info := .window .page .stop 4 0 3 }] ∧
    shows (pseudoSetpages 7) (ready .h32 false []) =
      some [.response { status := 0x12, info := .window .page .start 7 0 3 }] := by decide
-- V-W14, V-W16
theorem test_setpages :
    shows (pseudoSetpages 2) (ready .h64 false (acks 3)) = some [ack 0x22, ack 0x02, ack 0x07, ok] ∧
    shows (.setpages 3 3 0) (ready .h32 false (acks 3)) = some [ack 0x22, ack 0x03, ack 0x03, ok] := by decide

/-! ## Reset, and a step -/

/-- CLEAR waiting, `seq` as DISPLAY leaves it. -/
def waitingAfterDisplay : State := { ready .h64 false [] with seq := 7, requests := [0x010000000000] }

-- 70_reset_and_hazards.md R201
theorem test_construct_refuses :
    State.construct 48 false 0x3C false (fun _ _ => illustrative) 100 = none ∧
    State.construct 32 false 128 false (fun _ _ => illustrative) 100 = none := by decide
theorem test_reset_memory : State.reset.fb.wf = true ∧ memRead 0 State.reset = 0x40 ∧ memRead 7 State.reset = 0 := by
  decide
-- V-E1's word through fetch, decode and SETPIX: index 1 + 10 + 2 * 128, bit 4
theorem test_step_setpix :
    (after (step (State.reset.withFetchWord 48 0x02000A001401))).map (fun t => (t.fb, t.busy, t.requests)) =
      some ([(267, 0x10)], false, []) := by decide
-- V-X1
theorem test_step_illegal :
    (after (step (State.reset.withFetchWord 48 0x050007000707))).map State.trace =
      some [.response { status := 0x01, info := .op 0x05 }] := by decide
-- R26: CLEAR after DISPLAY, each begun by a step, leaves 0
theorem test_step_seq :
    (after (step (waitingAfterDisplay))).map State.seq = some 0 := by decide
-- a given answer is used up before a free value (log 3)
theorem test_answers_used_up :
    (after (exec (.wrcmd 0) (ready .h32 false [.ack, .fail]))).map (fun t => (t.answers, t.draws, t.seq)) =
      some ([.fail], 0, 1) := by decide

/-! ## The clients (48_clients.md) -/

/-- A font of three glyphs: codepoints 0x20, 0x21, 0x22. -/
def smallFont : List Byte := [0, 0, 0, 0, 0, 1, 2, 3, 4, 5, 6, 7, 8, 9, 10]

-- V-K2's two cases on the small font
theorem test_glyph :
    Clients.glyph smallFont 0x21 = some [1, 2, 3, 4, 5] ∧ Clients.glyph smallFont 0x1F = none ∧
    Clients.glyph smallFont 0x23 = none := by decide
-- V-K4, V-K5, V-K6
theorem test_cell_and_advance :
    Clients.cellIndex { row := 2, col := 20 } = 377 ∧
    Clients.advance (config .h32 false) { row := 2, col := 20 } = { row := 3, col := 0 } ∧
    Clients.advance (config .h32 false) { row := 3, col := 20 } = { row := 0, col := 0 } ∧
    Clients.advance (config .h64 false) { row := 7, col := 19 } = { row := 7, col := 20 } := by decide
-- V-K7
theorem test_stride : [1, 2, 4, 5, 128].map (Clients.stride 24) = [4, 8, 12, 16, 384] := by decide
-- V-K3
theorem test_pChar :
    ((Clients.pChar smallFont 0x21 { block := ready .h32 false [], cursor := .start }).1.block.fb,
     (Clients.pChar smallFont 0x21 { block := ready .h32 false [], cursor := .start }).1.cursor) =
      ([(1, 1), (2, 2), (3, 3), (4, 4), (5, 5)], ({ row := 0, col := 1 } : Clients.Cursor)) := by decide

/-- The file of program P5, the byte at offset 57 and the depth as given. -/
def smallBitmap (depth pixel : Byte) : List Byte :=
  [0x42, 0x4D, 0x46, 0, 0, 0, 0, 0, 0, 0, 0x36, 0, 0, 0] ++
  [0x28, 0, 0, 0, 2, 0, 0, 0, 2, 0, 0, 0, 1, 0, depth, 0] ++
  [0, 0, 0, 0, 0x10, 0, 0, 0] ++ List.replicate 16 0 ++
  [0xFF, 0xFF, 0xFF, pixel, 0, 0, 0, 0] ++
  [0xFF, 0xFF, 0xFF, 0xFF, 0xFF, 0xFF, 0, 0]

/-- The bitmap client on a file, its coming read answers given. -/
def client (file : List Byte) (answers : List ReadAnswer) : Clients.DecodeSession :=
  { Clients.DecodeSession.ofFile file (ready .h32 false []) with readAnswers := answers }

/-- As many reads done as a two by two picture takes: 2, 28 and 4. -/
def allRead : List ReadAnswer := List.replicate 34 .done

-- P5
theorem test_decode_bitmap :
    (Clients.decodeBitmap (0x42, 0x4D) (client (smallBitmap 24 0) allRead)).2 = none ∧
    (Clients.decodeBitmap (0x42, 0x4D) (client (smallBitmap 24 0) allRead)).1.block.fb = [(2, 0x02)] := by decide
-- V-K9
theorem test_decode_white :
    (Clients.decodeBitmap (0x42, 0x4D) (client (smallBitmap 24 0xFF) allRead)).1.block = ready .h32 false [] := by decide
-- V-K8, V-K10
theorem test_decode_refuses :
    (Clients.decodeBitmap (0x42, 0x4D) (client (smallBitmap 16 0) allRead)).2 = some .bmpFormat ∧
    (Clients.decodeBitmap (0x42, 0x4E) (client (smallBitmap 24 0) allRead)).2 = some .bmpSignature := by decide
-- R192: a read that fails in the paint loop, and a file that ends there
theorem test_decode_io :
    (Clients.decodeBitmap (0x42, 0x4D) (client (smallBitmap 24 0) (List.replicate 31 .done ++ [.failed]))).2 = some .io ∧
    (Clients.decodeBitmap (0x42, 0x4D) (client ((smallBitmap 24 0).take 60) allRead)).2 = some .io := by decide
-- R192: released on an error path
theorem test_decode_releases :
    (Clients.decodeBitmap (0x42, 0x4D) (client (smallBitmap 24 0) [.failed])).1.uses =
      [.opened .file, .opened .block, .read 0 .failed, .released .block, .released .file] := by decide

/-! ## Witnesses: the hypotheses of each statement can be met -/

theorem allAck_acks (h : Height) (rst : Bool) : allAck (ready h rst (acks 24)) 24 := by
  unfold allAck
  cases h <;> cases rst <;> decide

theorem failsAt_0 (h : Height) : failsAt (ready h false (acksThenFail 0)) 0 := by
  unfold failsAt allAck
  cases h <;> decide

theorem failsAt_1 (h : Height) : failsAt (ready h false (acksThenFail 1)) 1 := by
  unfold failsAt allAck
  cases h <;> decide

theorem failsAt_2 (h : Height) : failsAt (ready h false (acksThenFail 2)) 2 := by
  unfold failsAt allAck
  cases h <;> decide

theorem failsAt_5 (h : Height) : failsAt (ready h false (acksThenFail 5)) 5 := by
  unfold failsAt allAck
  cases h <;> decide

theorem failsAt_6 (h : Height) : failsAt (ready h false (acksThenFail 6)) 6 := by
  unfold failsAt allAck
  cases h <;> decide

theorem failsAt_22 (h : Height) : failsAt (ready h false (acksThenFail 22)) 22 := by
  unfold failsAt allAck
  cases h <;> decide

theorem failsAt_23 (h : Height) : failsAt (ready h false (acksThenFail 23)) 23 := by
  unfold failsAt allAck
  cases h <;> decide

theorem witness_DecodeInvertsEncode :
    (Instr.setpix (-32768) 32767 0xFF).wellFormed = true ∧ (Instr.setpages 32767 (-32768) 1).wellFormed = true := by decide

theorem witness_DecodedInstrIsWellFormed : ∃ i, decode 0x028000800001 = .instr i := ⟨.setpix (-32768) (-32768) 1, by decide⟩

theorem witness_AssemblerWordFormula :
    (-32768 : Int) ≤ -32768 ∧ (-32768 : Int) ≤ 32767 ∧ (-32768 : Int) ≤ 32767 ∧ (32767 : Int) ≤ 32767 ∧
      (0 : Int) ≤ 255 ∧ (255 : Int) ≤ 255 ∧ (32767 : Int) < 32768 ∧ (-32769 : Int) < -32768 ∧ (255 : Int) < 256 ∧
      (Instr.wrbyte 32767 0).wellFormed = true := by decide

/-- A block with one word waiting. -/
def waiting (w : Request) : State := { ready .h64 false [] with requests := [w] }

theorem witness_IllegalOpAnswersOnly :
    (waiting 0x050000000000).busy = false ∧ (waiting 0x050000000000).requests = [0x050000000000] ∧
    illegalOpcode (Request.opField 0x050000000000).toNat ∧ ¬ illegalOpcode (Request.opField 0x040000000000).toNat := by
  decide

/-- The first and the last code of each range. -/
theorem witness_illegal_ranges :
    ∀ op ∈ [0x00, 0x05, 0x0F, 0x12, 0x1F, 0x25, 0x2F, 0x32, 0xFF], illegalOpcode op := by decide

theorem witness_legal_neighbours :
    ∀ op ∈ [0x01, 0x04, 0x10, 0x11, 0x20, 0x24, 0x30, 0x31], ¬ illegalOpcode op := by decide

theorem witness_UnusedFieldsHaveNoEffect :
    (0x03 : Byte).getLsbD 0 = (0x01 : Byte).getLsbD 0 ∧ (0x03 : Byte).getLsbD 0 = true ∧
    (0x02 : Byte).getLsbD 0 = (0x00 : Byte).getLsbD 0 ∧ (0x80 : Byte) ≠ 0 := by decide

theorem witness_StepPerformsDecodedRequest :
    (waiting 0x310002000001).busy = false ∧ (waiting 0x310002000001).requests = [0x310002000001] ∧
    decode 0x310002000001 = .instr (.setpages 2 0 1) := by decide

theorem witness_PlacedWordIsPerformed : (Instr.wrbyte 32767 0xFF).wellFormed = true := by decide

theorem witness_BusyHandshake :
    ({ waiting 0 with busy := true } : State).busy = true ∧
    (waiting 0).busy = false ∧ (waiting 0).requests = [0] := by decide

theorem witness_WaitingChangesNothing :
    ({ waiting 0 with busy := true } : State).busy = true ∧ (ready .h32 false []).requests = [] := by decide

theorem witness_ConstructionGivesResetValues :
    ((32 = 32 ∨ 32 = 64) ∧ 0 ≤ 127) ∧ ((64 = 32 ∨ 64 = 64) ∧ 127 ≤ 127) := by decide

theorem witness_ConfigurationNeverChanges :
    (∃ t, step (waiting 0x010000000000) = .next t) ∧ (∃ t, exec .poweron (ready .h64 true []) = .next t) :=
  ⟨⟨_, rfl⟩, ⟨_, rfl⟩⟩

theorem witness_AllRequestsServed :
    (waiting 0x050000000000).busy = false ∧ (waiting 0x050000000000).requests ≠ [] := by decide

theorem witness_CanonicalBuffersAreEqual :
    Memory.wf [(1, 0xFF)] = true ∧ Memory.wf (Memory.write [] 1 0xFF) = true ∧
    ∀ i, Memory.read [(1, 0xFF)] i = Memory.read (Memory.write [] 1 0xFF) i :=
  ⟨by decide, by decide, fun _ => rfl⟩

theorem witness_ClearIsItsLoop : ({ ready .h32 false [] with fb := [(5, 0xFF)] } : State).fb.wf = true := by decide

theorem witness_PixelMapIsBijection :
    onPanel (config .h32 false) 127 31 ∧ onPanel (config .h64 false) 127 63 ∧ onPanel (config .h64 false) 0 0 ∧
    pixMap 0 0 = pixMap 0 0 ∧ (1 : Nat) ≤ 512 ∧ 512 < (config .h32 false).fbLen ∧ (7 : Nat) < 8 := by decide

theorem witness_PixelMapInverse :
    (1 : Nat) ≤ 1 ∧ (1 : Nat) ≤ 1024 ∧ 1024 < (config .h64 false).fbLen ∧ (0 : Nat) < 8 ∧ (7 : Nat) < 8 := by decide

/-- SETPIX and PIXEL: a canonical buffer, coordinates at the edges of the panel, and each side outside it. -/
theorem witness_SetpixWritesItsByte :
    (ready .h32 false []).fb.wf = true ∧ onPanel (ready .h32 false []).cfg 127 31 ∧
    onPanel (ready .h32 false []).cfg 0 0 ∧ ¬ onPanel (ready .h32 false []).cfg 0 32 ∧
    ¬ onPanel (ready .h32 false []).cfg 128 0 ∧ ¬ onPanel (ready .h32 false []).cfg (-1) 0 := by decide

theorem witness_SetpixTouchesOneBit :
    (ready .h64 false []).fb.wf = true ∧ onPanel (ready .h64 false []).cfg 127 63 := by decide

theorem witness_SetpixPairRestoresWhenClear :
    ({ ready .h64 false [] with fb := [(132, 0x04)] } : State).fb.wf = true ∧
    onPanel (ready .h64 false []).cfg 3 10 := by decide

theorem witness_PixelSetsItsByte :
    (ready .h64 false []).fb.wf = true ∧ onPanel (ready .h64 false []).cfg 127 63 ∧
    ¬ onPanel (ready .h64 false []).cfg 0 64 ∧ ¬ onPanel (ready .h64 false []).cfg 0 (-1) := by decide

theorem witness_PixelOnlySetsAndIsIdempotent :
    ({ ready .h64 false [] with fb := [(134, 0xFD)] } : State).fb.wf = true ∧
    onPanel (ready .h64 false []).cfg 5 9 := by decide

theorem witness_OutOfRangePixelsWriteNothing :
    (-1 : Int) < 0 ∧ (128 : Int) ≤ 128 ∧ ((ready .h32 false []).cfg.height.rows : Int) ≤ 32 ∧
    ((ready .h64 false []).cfg.height.rows : Int) ≤ 64 := by decide

theorem witness_PixelAgreesWithSetpix : Request.opField 0x050007000707 = 0x05 := by decide

theorem witness_WrbyteWritesItsByte :
    (ready .h32 false []).fb.wf = true ∧ (1 : Int) ≤ 1 ∧ (512 : Int) < ((ready .h32 false []).cfg.fbLen : Int) ∧
    (0 : Int) < 1 ∧ ((ready .h32 false []).cfg.fbLen : Int) ≤ 513 := by decide

theorem witness_BufferOperationsTouchOnlyBuffer :
    isBufferOp (.wrbyte 0 0xFF) = true ∧ isBufferOp .clear = true := by decide

theorem witness_BufferWritesActAsArray :
    (ready .h32 false []).fb.wf = true ∧
    ∀ i, i ∈ [Instr.wrbyte 1 0x7E, .setpix 0 0 0, .pixel 0 7 0] → writesOneByte i = true := by decide

theorem witness_WrcmdSendsOneFrame :
    allAck (ready .h32 false (acks 24)) 1 ∧ failsAt (ready .h32 false (acksThenFail 0)) 0 :=
  ⟨Laws.allAck_mono (allAck_acks .h32 false) (by omega), failsAt_0 .h32⟩

theorem witness_DisplaySendsWindowAndBuffer :
    allAck (ready .h32 false (acks 24)) 7 ∧ failsAt (ready .h32 false (acksThenFail 0)) 0 ∧
    failsAt (ready .h64 false (acksThenFail 5)) 5 ∧ failsAt (ready .h64 false (acksThenFail 6)) 6 :=
  ⟨Laws.allAck_mono (allAck_acks .h32 false) (by omega), failsAt_0 .h32, failsAt_5 .h64, failsAt_6 .h64⟩

theorem witness_DisplayWindowIsTheSetters : allAck (ready .h64 false (acks 24)) 7 :=
  Laws.allAck_mono (allAck_acks .h64 false) (by omega)

theorem witness_OnlyTwoFrameShapes :
    (ready .h32 false (acks 24)).fb.read 0 = 0x40 ∧ ∃ t, exec .display (ready .h32 false (acks 24)) = .next t :=
  ⟨by decide, ⟨_, rfl⟩⟩

theorem witness_FsmFollowsTransitionTable :
    allAck { ready .h64 false (acks 24) with fsm := .active } 24 ∧
    failsAt { ready .h64 false (acksThenFail 23) with fsm := .poweringOn } 23 ∧
    failsAt { ready .h64 false (acksThenFail 22) with fsm := .poweringOn } 22 ∧
    failsAt { ready .h64 false (acksThenFail 0) with fsm := .inverted } 0 :=
  ⟨allAck_acks .h64 false, failsAt_23 .h64, failsAt_22 .h64, failsAt_0 .h64⟩

theorem witness_PoweronDelaysOrPulses :
    (ready .h64 false []).cfg.hasRst = false ∧ (ready .h64 true []).cfg.hasRst = true := by decide

theorem witness_InitdispSendsList :
    allAck (ready .h64 false (acks 24)) 24 ∧ failsAt (ready .h64 false (acksThenFail 23)) 23 ∧
    failsAt (ready .h64 false (acksThenFail 0)) 0 ∧ failsAt (ready .h32 false (acksThenFail 22)) 22 :=
  ⟨allAck_acks .h64 false, failsAt_23 .h64, failsAt_0 .h64, failsAt_22 .h32⟩

theorem witness_PoweroffSendsDisplayOff :
    allAck (ready .h64 false (acks 24)) 1 ∧ failsAt (ready .h64 false (acksThenFail 0)) 0 :=
  ⟨Laws.allAck_mono (allAck_acks .h64 false) (by omega), failsAt_0 .h64⟩

theorem witness_ContrastSendsRegisterAndValue :
    allAck (ready .h64 false (acks 24)) 2 ∧ failsAt (ready .h64 false (acksThenFail 0)) 0 ∧
    failsAt (ready .h64 false (acksThenFail 1)) 1 :=
  ⟨Laws.allAck_mono (allAck_acks .h64 false) (by omega), failsAt_0 .h64, failsAt_1 .h64⟩

theorem witness_InvertSelectsPolarity :
    allAck { ready .h64 false (acks 24) with fsm := .inverted } 1 ∧
    failsAt { ready .h64 false (acksThenFail 0) with fsm := .active } 0 :=
  ⟨Laws.allAck_mono (allAck_acks .h64 false) (by omega), failsAt_0 .h64⟩

/-- SETCOLS: start below and above its range, end below and above its range, and both bounds met at their edges. -/
theorem witness_SetcolsSendsWindow :
    ¬ ((0 : Int) ≤ -1 ∧ (-1 : Int) ≤ 127) ∧ ¬ ((0 : Int) ≤ 128 ∧ (128 : Int) ≤ 127) ∧
    ((0 : Int) ≤ 5 ∧ (5 : Int) ≤ 127 ∧ ¬ ((5 : Int) ≤ 4 ∧ (4 : Int) ≤ 127)) ∧
    ((0 : Int) ≤ 127 ∧ (127 : Int) ≤ 127 ∧ ¬ ((127 : Int) ≤ 128 ∧ (128 : Int) ≤ 127)) ∧
    ((0 : Int) ≤ 0 ∧ (0 : Int) ≤ 0 ∧ (127 : Int) ≤ 127) ∧
    allAck (ready .h64 false (acks 24)) 3 ∧ failsAt (ready .h64 false (acksThenFail 0)) 0 ∧
    failsAt (ready .h64 false (acksThenFail 2)) 2 :=
  ⟨by decide, by decide, by decide, by decide, by decide,
    Laws.allAck_mono (allAck_acks .h64 false) (by omega), failsAt_0 .h64, failsAt_2 .h64⟩

/-- SETPAGES: the bound is 3 for H = 32 and 7 for H = 64. -/
theorem witness_SetpagesSendsWindow :
    (((ready .h32 false []).cfg.height.rows : Int) / 8 - 1 = 3 ∧ ((ready .h64 false []).cfg.height.rows : Int) / 8 - 1 = 7) ∧
    ¬ ((0 : Int) ≤ -1 ∧ (-1 : Int) ≤ 3) ∧ ¬ ((0 : Int) ≤ 4 ∧ (4 : Int) ≤ 3) ∧
    ((0 : Int) ≤ 3 ∧ (3 : Int) ≤ 3 ∧ ¬ ((3 : Int) ≤ 2 ∧ (2 : Int) ≤ 3)) ∧
    ((0 : Int) ≤ 7 ∧ (7 : Int) ≤ 7) ∧
    allAck (ready .h32 false (acks 24)) 3 ∧ failsAt (ready .h64 false (acksThenFail 0)) 0 ∧
    failsAt (ready .h64 false (acksThenFail 2)) 2 :=
  ⟨by decide, by decide, by decide, by decide, by decide,
    Laws.allAck_mono (allAck_acks .h32 false) (by omega), failsAt_0 .h64, failsAt_2 .h64⟩

theorem witness_BusErrorCountsPerOperation :
    shows .initdisp (ready .h64 false (acksThenFail 0)) =
      some [fail 0xAE, .response { status := 0x04, info := .acked 0 }] ∧
    shows (.setpages 0 0 0) (ready .h64 false (acksThenFail 2)) =
      some [ack 0x22, ack 0x00, fail 0x00, .response { status := 0x04, info := .acked 2 }] := by decide

theorem witness_RangeErrorsHaveNoEffect :
    shows (.setpages 8 0 1) (ready .h64 false []) =
      some [.response { status := 0x12, info := .window .page .start 8 0 7 }] := by decide

theorem witness_ExactlyOneResponse :
    (waiting 0x300000007F00).busy = false ∧ (waiting 0x300000007F00).requests = [0x300000007F00] := by decide

theorem witness_CommandOperationsFrame :
    isBufferOp (.contrast 0xFF) = false ∧ isBufferOp .poweron = false ∧ Instr.contrast 0xFF ≠ .poweron ∧
    Instr.contrast 0xFF ≠ .initdisp ∧ Instr.contrast 0xFF ≠ .poweroff ∧ ∀ c, Instr.contrast 0xFF ≠ .invert c :=
  ⟨by decide, by decide, by decide, by decide, by decide, fun _ h => by cases h⟩

theorem witness_SeqCountsAckedTransactions :
    waitingAfterDisplay.busy = false ∧ waitingAfterDisplay.requests = [0x010000000000] ∧
    decode 0x010000000000 = .instr .clear ∧ isBufferOp (.setcols 0 127 0) = false := by decide

theorem reset_inv : Inv State.reset :=
  ⟨by decide, by decide, by decide, by decide, by decide, by decide, fun _ h => absurd h (List.not_mem_nil)⟩

theorem witness_StepKeepsInv :
    Inv { waiting 0x02000A001401 with trace := [ack 0xAF, .response { status := 0x00, info := .none }] } :=
  ⟨by decide, by decide, by decide, by decide, by decide, by decide, by
    intro e he
    rcases List.mem_cons.1 he with rfl | he
    · exact ⟨rfl, .inl ⟨0xAF, rfl⟩⟩
    · rcases List.mem_cons.1 he with rfl | he
      · trivial
      · cases he⟩

theorem witness_CharacterCellWritten :
    Clients.glyph smallFont 0x7F = none ∧ Clients.glyph smallFont 0x22 = some [6, 7, 8, 9, 10] ∧
    cursorOnPanel (config .h32 false) { row := 3, col := 20 } ∧ (ready .h32 false []).fb.wf = true := by
  unfold cursorOnPanel
  decide

theorem witness_CursorStaysOnPanel : cursorOnPanel (config .h64 false) { row := 7, col := 20 } := by
  unfold cursorOnPanel
  decide

theorem witness_CharacterRowFills :
    (ready .h32 false []).fb.wf = true ∧
    (∀ ch, ch ∈ List.replicate 21 0x22 → Clients.glyph smallFont ch ≠ none) ∧ (List.replicate 21 0x22).length = 21 ∧
    Clients.Cursor.start.col = 0 ∧ Clients.Cursor.start.row < (config .h32 false).pages ∧
    (List.replicate 21 0x22)[20]? = some 0x22 ∧ Clients.glyph smallFont 0x22 = some [6, 7, 8, 9, 10] ∧ (5 : Nat) < 6 ∧
    (128 * 3 + 127 ≤ 128 * 3 + 128) := by decide

theorem witness_DecoderNeverClears :
    ({ ready .h32 false [] with fb := [(2, 0xFF)] } : State).fb.wf = true ∧
    (Memory.read [(2, 0xFF)] 2).getLsbD 7 = true := by decide

theorem witness_DecodeReleasesItsResources :
    Clients.readAnswerAt (client (smallBitmap 24 0) [.failed]) 0 = .failed := by decide

/-- The header of the small bitmap. -/
def smallHeader : Clients.BmpHeader :=
  { fileSize := 70, dataOffset := 54, width := 2, height := 2, planes := 1, bpp := 24, compression := 0, imageSize := 16 }

/-- The premises of all three clauses: an all-white picture that fits, every read done; and one with a black pixel whose
decode ends without error. -/
theorem witness_BitmapPaintsNonWhitePixels :
    hasSignature (0x42, 0x4D) (client (smallBitmap 24 0xFF) allRead).file ∧
    Clients.readHeader (smallBitmap 24 0xFF) = some smallHeader ∧ Clients.readHeader (smallBitmap 24 0) = some smallHeader ∧
    smallHeader.bpp = 24 ∧ (ready .h32 false []).fb.wf = true ∧ readsDone (client (smallBitmap 24 0xFF) allRead) (readsOf smallHeader) ∧
    (∀ r x, r < smallHeader.height → x < smallHeader.width →
      (smallBitmap 24 0xFF)[Clients.pixelOffset smallHeader r x]? = some 0xFF) ∧
    (Clients.decodeBitmap (0x42, 0x4D) (client (smallBitmap 24 0) allRead)).2 = none ∧
    onPanel (ready .h32 false []).cfg (1 : Nat) (1 : Nat) ∧ onPanel (ready .h32 false []).cfg (127 : Nat) (31 : Nat) ∧
    smallHeader.width ≤ 128 ∧ smallHeader.height ≤ (ready .h32 false []).cfg.height.rows ∧
    (∀ r x, r < smallHeader.height → x < smallHeader.width →
      Clients.pixelOffset smallHeader r x < (smallBitmap 24 0xFF).length) := by
  have small : ∀ r x, r < smallHeader.height → x < smallHeader.width →
      (r = 0 ∨ r = 1) ∧ (x = 0 ∨ x = 1) := by
    intro r x hr hx
    simp only [smallHeader] at hr hx
    omega
  refine ⟨⟨by decide, by decide⟩, by decide, by decide, by decide, by decide, by unfold readsDone; decide, ?_, by decide,
    by decide, by decide, by decide, by decide, ?_⟩
  · intro r x hr hx
    obtain ⟨h | h, h' | h'⟩ := small r x hr hx <;> subst h <;> subst h' <;> decide
  · intro r x hr hx
    obtain ⟨h | h, h' | h'⟩ := small r x hr hx <;> subst h <;> subst h' <;> decide

end Sys2Proof.Tests
end

/-! ## The scope of the block (00_scope.md): what every operation keeps -/

namespace Sys2Proof.Proofs

open Sys2Proof.Machine Sys2Proof.Safety Sys2Proof.Laws

/-! ### The state an operation has reached -/

/-- The state an operation so far stands in, whether it goes on or has raised an error. -/
def reached : Result → State
  | .done s => s
  | .raised _ s => s

@[simp] theorem reached_done (s : State) : reached (.done s) = s := rfl

@[simp] theorem reached_raised (e : Err) (s : State) : reached (.raised e s) = s := rfl

/-- What both parts of an operation keep, the whole keeps, however it ends. -/
theorem andThen_keeps {P : State → Prop} {r : Result} {f : State → Result} (hr : P (reached r))
    (hf : ∀ t, P t → P (reached (f t))) : P (reached (r.andThen f)) := by
  cases r with
  | done s => exact hf s hr
  | raised e s => exact hr

@[simp] theorem reached_check (e : Option Err) (s : State) : reached (check e s) = s := by
  cases e <;> rfl

/-- The response is the end of an operation: it leaves everything but `busy` and the trace as the operation left it. -/
theorem finish_eq_next {r : Result} {t : State} (h : finish r = .next t) : ∃ a, t = respond a (reached r) := by
  cases r with
  | done s =>
    cases h
    exact ⟨_, rfl⟩
  | raised e s =>
    cases h
    exact ⟨_, rfl⟩

/-! ### The configuration (00_scope.md R9) -/

theorem cfg_of_finish {r : Result} {t : State} (h : finish r = .next t) : t.cfg = (reached r).cfg := by
  obtain ⟨a, rfl⟩ := finish_eq_next h
  exact respond_cfg a (reached r)

/-- A buffer operation with its range check (40_buffer.md R85, R88, R92): it writes one byte or raises its error. -/
theorem guardedWrite_cfg (inside : Prop) [Decidable inside] (i : Nat) (v : Byte) (e : Err) (s : State) :
    (reached (if inside then .done (memWrite i v s) else .raised e s)).cfg = s.cfg := by
  split
  · exact memWrite_cfg i v s
  · rfl

@[simp] theorem sendFrame_cfg (bytes : List Byte) (s : State) : (reached (sendFrame bytes s)).cfg = s.cfg := by
  cases h : answerAt s 0 with
  | ack => simp [sendFrame_ack h]
  | fail => simp [sendFrame_fail h]

@[simp] theorem sendCmd_cfg (b : Byte) (s : State) : (reached (sendCmd b s)).cfg = s.cfg :=
  sendFrame_cfg _ s

@[simp] theorem sendData_cfg (s : State) : (reached (sendData s)).cfg = s.cfg :=
  sendFrame_cfg _ s

@[simp] theorem sendCmds_cfg (bytes : List Byte) (s : State) : (reached (sendCmds bytes s)).cfg = s.cfg := by
  induction bytes generalizing s with
  | nil => rfl
  | cons b rest ih => exact andThen_keeps (P := (·.cfg = s.cfg)) (sendCmd_cfg b s) fun t ht => (ih t).trans ht

theorem sendWindow_cfg (axis : Axis) (command : Byte) (start stop bound : Int) (s : State) :
    (reached (sendWindow axis command start stop bound s)).cfg = s.cfg :=
  andThen_keeps (P := (·.cfg = s.cfg)) (by simp) fun t ht => (sendCmds_cfg _ t).trans ht

@[simp] theorem resetPulse_cfg (s : State) : (resetPulse s).cfg = s.cfg := by
  simp [resetPulse]

/-- Every instruction keeps the configuration: each is the end of an operation whose parts all keep it. -/
theorem exec_cfg {i : Instr} {s t : State} (h : exec i s = .next t) : t.cfg = s.cfg := by
  cases i with
  | clear => exact cfg_of_finish h
  | setpix x y c => exact (cfg_of_finish h).trans (guardedWrite_cfg ..)
  | pixel x y c => exact (cfg_of_finish h).trans (guardedWrite_cfg ..)
  | wrbyte k v => exact (cfg_of_finish h).trans (guardedWrite_cfg ..)
  | wrcmd c => exact (cfg_of_finish h).trans (sendCmd_cfg c _)
  | display =>
    exact (cfg_of_finish h).trans (andThen_keeps (P := (·.cfg = s.cfg)) (sendCmds_cfg _ _)
      fun sent hsent => (sendData_cfg sent).trans hsent)
  | poweron =>
    refine (cfg_of_finish h).trans ?_
    rw [reached_done]
    split <;> simp
  | initdisp =>
    refine (cfg_of_finish h).trans (andThen_keeps (P := (·.cfg = s.cfg)) (sendCmds_cfg _ _) fun configured hc => ?_)
    exact andThen_keeps (P := (·.cfg = s.cfg)) ((sendCmd_cfg _ _).trans hc) fun _ hshown => hshown
  | poweroff =>
    exact (cfg_of_finish h).trans (andThen_keeps (P := (·.cfg = s.cfg)) (sendCmd_cfg _ _) fun _ hsent => hsent)
  | contrast c => exact (cfg_of_finish h).trans (sendCmds_cfg _ _)
  | invert c =>
    exact (cfg_of_finish h).trans (andThen_keeps (P := (·.cfg = s.cfg)) (sendCmd_cfg _ _) fun _ hsent => hsent)
  | setcols start stop c => exact (cfg_of_finish h).trans (sendWindow_cfg ..)
  | setpages start stop c => exact (cfg_of_finish h).trans (sendWindow_cfg ..)

theorem accept_cfg {s t : State} {w : Request} (h : accept s = some (w, t)) : t.cfg = s.cfg := by
  obtain ⟨rest, -, -, rfl⟩ := accept_eq_some h
  rfl

/-- Every step keeps the configuration: waiting, performing an instruction and answering an illegal request do. -/
theorem step_cfg {s t : State} (h : step s = .next t) : t.cfg = s.cfg := by
  unfold step at h
  split at h
  · cases h
    rfl
  · next w s' ha =>
    have haccept : s'.cfg = s.cfg := accept_cfg ha
    split at h
    · exact (exec_cfg h).trans haccept
    · exact (cfg_of_finish h).trans haccept

/-- Settles O13: acceptance, every shared operation and the response keep the configuration, hence so do `exec` and
`step`. -/
theorem configurationNeverChanges : Obligations.ConfigurationNeverChanges := by
  unfold Obligations.ConfigurationNeverChanges
  exact ⟨fun _ _ => step_cfg, fun _ _ _ => exec_cfg⟩

end Sys2Proof.Proofs

/-! ## The state of the block (10_state.md): what an operation shows, counts, keeps and depends on -/

namespace Sys2Proof.Proofs

open Sys2Proof.Machine Sys2Proof.Safety Sys2Proof.Laws

/-! ### The request port (10_state.md R30) -/

theorem accept_of_busy {s : State} (h : s.busy = true) : accept s = none := by
  simp [accept, h]

theorem accept_of_no_request {s : State} (h : s.requests = []) : accept s = none := by
  simp [accept, h]

theorem accept_waiting {s : State} {w : Request} {rest : List Request} (hbusy : s.busy = false)
    (hreq : s.requests = w :: rest) : accept s = some (w, { s with requests := rest, busy := true }) := by
  simp [accept, hbusy, hreq]

theorem step_of_accept_none {s : State} (h : accept s = none) : step s = .next s := by
  simp [step, h]

theorem step_of_instr {s t : State} {w : Request} {i : Instr} (h : accept s = some (w, t))
    (hdec : decode w = .instr i) : step s = exec i (startOperation t) := by
  simp [step, h, hdec]

theorem step_of_illegalOp {s t : State} {w : Request} {op : Byte} (h : accept s = some (w, t))
    (hdec : decode w = .illegalOp op) : step s = illegalRequest op t := by
  simp [step, h, hdec]

/-- Settles O7: the accepted state, with the operation begun, is the state the statement writes out. -/
theorem stepPerformsDecodedRequest : Obligations.StepPerformsDecodedRequest := by
  unfold Obligations.StepPerformsDecodedRequest
  intro s w rest i hbusy hreq hdec
  exact step_of_instr (accept_waiting hbusy hreq) hdec

/-- Settles O10: what can accept nothing waits. -/
theorem waitingChangesNothing : Obligations.WaitingChangesNothing := by
  unfold Obligations.WaitingChangesNothing
  intro s h
  have hnone : accept s = none := h.elim accept_of_busy accept_of_no_request
  exact ⟨hnone, step_of_accept_none hnone⟩

/-! ### The course of an operation (10_state.md R26, R27; 30_encoding.md R69) -/

/-- What an operation may have done on its way from `s` to `t`, before its response: it has shown events, none of them
a response, and `seq` has counted the ACKed transactions among them, `n` at most; the waiting words are as they were,
and so is the reset line unless the operation `drives` it. -/
structure Course (drives : Bool) (n : Nat) (s t : State) : Prop where
  shown    : ∃ events, t.trace = s.trace ++ events ∧ (∀ e ∈ events, isResponse e = false) ∧
    t.seq = s.seq + (events.filter isAckedTx).length
  bounded  : t.seq ≤ s.seq + n
  requests : t.requests = s.requests
  line     : drives = false → t.rstOut = s.rstOut

/-- A part of an operation that shows nothing and counts nothing. -/
theorem Course.silent {d : Bool} {s t : State} (htrace : t.trace = s.trace) (hseq : t.seq = s.seq)
    (hreq : t.requests = s.requests) (hline : t.rstOut = s.rstOut) : Course d 0 s t where
  shown := ⟨[], by simp [htrace], by simp, by simp [hseq]⟩
  bounded := Nat.le_of_eq hseq
  requests := hreq
  line := fun _ => hline

theorem Course.mono {d : Bool} {n m : Nat} {s t : State} (h : Course d n s t) (hnm : n ≤ m) : Course d m s t :=
  { h with bounded := Nat.le_trans h.bounded (Nat.add_le_add_left hnm _) }

theorem Course.trans {d : Bool} {n m : Nat} {s t u : State} (hst : Course d n s t) (htu : Course d m t u) :
    Course d (n + m) s u where
  shown := by
    obtain ⟨before, htrace, hquiet, hseq⟩ := hst.shown
    obtain ⟨after, htrace', hquiet', hseq'⟩ := htu.shown
    refine ⟨before ++ after, by simp [htrace', htrace], fun e he => ?_, ?_⟩
    · exact (List.mem_append.1 he).elim (hquiet e) (hquiet' e)
    · simp [hseq', hseq, Nat.add_assoc]
  bounded := by
    have hn := hst.bounded
    have hm := htu.bounded
    omega
  requests := htu.requests.trans hst.requests
  line := fun hd => (htu.line hd).trans (hst.line hd)

theorem Course.andThen {d : Bool} {n m : Nat} {s : State} {r : Result} {f : State → Result}
    (hr : Course d n s (reached r)) (hf : ∀ t, Course d m t (reached (f t))) :
    Course d (n + m) s (reached (r.andThen f)) := by
  cases r with
  | done t => exact hr.trans (hf t)
  | raised e t => exact hr.mono (Nat.le_add_right n m)

theorem setFsm_course (d : Bool) (f : Fsm) (s : State) : Course d 0 s (setFsm f s) := .silent rfl rfl rfl rfl

/-- An operation that ends by moving `fsm`, as INITDISP, POWEROFF and INVERT do. -/
theorem Course.thenFsm {d : Bool} {n : Nat} {s : State} {r : Result} (hr : Course d n s (reached r))
    (f : State → Fsm) : Course d n s (reached (r.andThen fun t => .done (setFsm (f t) t))) := by
  cases r with
  | done t => exact hr.trans (setFsm_course d (f t) t)
  | raised e t => exact hr

theorem delay_course (d : Bool) (ms : Nat) (s : State) : Course d 0 s (delay ms s) where
  shown := ⟨[.delay ms], rfl, by simp [isResponse], rfl⟩
  bounded := Nat.le_refl _
  requests := rfl
  line := fun _ => rfl

theorem driveRst_course (l : Level) (s : State) : Course true 0 s (driveRst l s) where
  shown := ⟨[.rstOut l], rfl, by simp [isResponse], rfl⟩
  bounded := Nat.le_refl _
  requests := rfl
  line := fun h => nomatch h

theorem resetPulse_course (s : State) : Course true 0 s (resetPulse s) :=
  (((((driveRst_course _ _).trans (delay_course _ _ _)).trans (driveRst_course _ _)).trans
    (delay_course _ _ _)).trans (driveRst_course _ _)).trans (delay_course _ _ _)

/-- A buffer operation with its range check shows and counts nothing, whether it writes or raises its error. -/
theorem guardedWrite_course (d : Bool) (inside : Prop) [Decidable inside] (i : Nat) (v : Byte) (e : Err) (s : State) :
    Course d 0 s (reached (if inside then .done (memWrite i v s) else .raised e s)) := by
  split <;> exact .silent rfl rfl rfl rfl

/-- One transaction: `seq` counts it exactly when it is ACKed. -/
theorem sendFrame_course (d : Bool) (bytes : List Byte) (s : State) : Course d 1 s (reached (sendFrame bytes s)) := by
  cases h : answerAt s 0 with
  | ack =>
    rw [sendFrame_ack h]
    exact ⟨⟨[.busTx s.cfg.addr bytes .ack], by simp [h], by simp [isResponse], rfl⟩,
      by simp, by simp, fun _ => by simp⟩
  | fail =>
    rw [sendFrame_fail h]
    exact ⟨⟨[.busTx s.cfg.addr bytes .fail], by simp [h], by simp [isResponse], by simp [isAckedTx]⟩,
      by simp, by simp, fun _ => by simp⟩

theorem sendCmds_course (d : Bool) (bytes : List Byte) (s : State) :
    Course d bytes.length s (reached (sendCmds bytes s)) := by
  induction bytes generalizing s with
  | nil => exact .silent rfl rfl rfl rfl
  | cons b rest ih =>
    rw [List.length_cons, Nat.add_comm]
    exact (sendFrame_course d _ s).andThen ih

/-- A window setter sends at most its three frames, and counts from `seq` 0 on (43_window.md R140, R142). -/
theorem sendWindow_course (d : Bool) (axis : Axis) (command : Byte) (start stop bound : Int) (s : State) :
    Course d 3 (setSeq 0 s) (reached (sendWindow axis command start stop bound s)) := by
  have hcheck : Course d 0 (setSeq 0 s) (reached (check (checkWindow axis start stop bound) (setSeq 0 s))) := by
    rw [reached_check]
    exact .silent rfl rfl rfl rfl
  exact hcheck.andThen (sendCmds_course d [command, boundByte start, boundByte stop])

/-- The state an operation counts from: those of 40_buffer.md leave `seq` as they find it, every other begins with
`seq <- 0` (log 6). -/
def countsFrom (i : Instr) (s : State) : State := if isBufferOp i then s else setSeq 0 s

/-- POWERON, where the line exists, drives the reset line (42_init_sequence.md R122). -/
def drivesLine (i : Instr) (s : State) : Bool := decide (i = .poweron ∧ s.cfg.hasRst = true)

/-- Everything an instruction does before its response, with the longest frame list that of INITDISP: 24 frames. -/
theorem exec_course (i : Instr) (s : State) :
    ∃ r, exec i s = finish r ∧ Course (drivesLine i s) 24 (countsFrom i s) (reached r) := by
  cases i with
  | clear => exact ⟨_, rfl, .mono (.silent rfl rfl rfl rfl) (by decide)⟩
  | setpix x y c => exact ⟨_, rfl, .mono (guardedWrite_course ..) (by decide)⟩
  | pixel x y c => exact ⟨_, rfl, .mono (guardedWrite_course ..) (by decide)⟩
  | wrbyte k v => exact ⟨_, rfl, .mono (guardedWrite_course ..) (by decide)⟩
  | wrcmd c => exact ⟨_, rfl, .mono (sendFrame_course ..) (by decide)⟩
  | display =>
    exact ⟨_, rfl, .mono ((sendCmds_course ..).andThen fun t => sendFrame_course _ _ t) (by simp [fullWindow])⟩
  | poweron =>
    refine ⟨_, rfl, .mono ((setFsm_course _ .poweringOn _).trans (m := 0) ?_) (by decide)⟩
    rw [reached_done]
    split
    · next hrst => simpa [drivesLine, hrst, countsFrom, isBufferOp] using resetPulse_course _
    · exact delay_course ..
  | initdisp =>
    refine ⟨_, rfl, .mono ((sendCmds_course ..).andThen (m := 1) fun t => ?_) (by simp [initConfig])⟩
    exact ((setFsm_course _ .initialized t).trans (sendFrame_course ..)).thenFsm fun _ => .active
  | poweroff => exact ⟨_, rfl, .mono ((sendFrame_course ..).thenFsm fun _ => .off) (by decide)⟩
  | contrast c => exact ⟨_, rfl, .mono (sendCmds_course ..) (by simp)⟩
  | invert c =>
    exact ⟨_, rfl, .mono ((sendFrame_course ..).thenFsm fun t => invertFsm (truth c) t.fsm) (by decide)⟩
  | setcols start stop c => exact ⟨_, rfl, .mono (sendWindow_course ..) (by decide)⟩
  | setpages start stop c => exact ⟨_, rfl, .mono (sendWindow_course ..) (by decide)⟩

/-- The same with the response, which is the end of the operation. -/
theorem exec_ends (i : Instr) (s : State) :
    ∃ t a, exec i s = .next (respond a t) ∧ Course (drivesLine i s) 24 (countsFrom i s) t := by
  obtain ⟨r, hexec, course⟩ := exec_course i s
  obtain ⟨a, hcomplete⟩ := finish_eq_next (r := r) rfl
  exact ⟨reached r, a, hexec.trans (congrArg _ hcomplete), course⟩

@[simp] theorem countsFrom_trace (i : Instr) (s : State) : (countsFrom i s).trace = s.trace := by
  unfold countsFrom; split <;> rfl

@[simp] theorem countsFrom_requests (i : Instr) (s : State) : (countsFrom i s).requests = s.requests := by
  unfold countsFrom; split <;> rfl

@[simp] theorem countsFrom_rstOut (i : Instr) (s : State) : (countsFrom i s).rstOut = s.rstOut := by
  unfold countsFrom; split <;> rfl

theorem countsFrom_seq_of_sender {i : Instr} (h : isBufferOp i = false) (s : State) : (countsFrom i s).seq = 0 := by
  simp [countsFrom, h]

/-- A begun operation counts from 0, whichever it is. -/
theorem countsFrom_startOperation_seq (i : Instr) (s : State) : (countsFrom i (startOperation s)).seq = 0 := by
  unfold countsFrom; split <;> rfl

/-! ### One response for each request (30_encoding.md R69) -/

/-- An operation ends in a next state: the port is free again, the waiting words are as they were, and the one response
is the last event shown. -/
theorem exec_responds (i : Instr) (s : State) :
    ∃ t events a, exec i s = .next t ∧ t.busy = false ∧ t.requests = s.requests ∧
      t.trace = s.trace ++ events ++ [.response a] ∧ ∀ e ∈ events, isResponse e = false := by
  obtain ⟨t, a, hexec, course⟩ := exec_ends i s
  obtain ⟨events, htrace, hquiet, -⟩ := course.shown
  refine ⟨respond a t, events, a, hexec, respond_busy a t, ?_, ?_, hquiet⟩
  · rw [respond_requests, course.requests, countsFrom_requests]
  · rw [respond_trace, htrace, countsFrom_trace]

/-- An illegal request is answered and does nothing else (30_encoding.md R59). -/
theorem illegalRequest_eq (op : Byte) (s : State) :
    illegalRequest op s = .next (respond (Err.illegalOp op).response s) := rfl

/-- Settles O9: acceptance looks at `busy` first, and every operation ends with its response, which frees the port. -/
theorem busyHandshake : Obligations.BusyHandshake := by
  unfold Obligations.BusyHandshake
  refine ⟨fun _ => accept_of_busy, fun _ _ _ => accept_waiting, fun i s => ?_, fun op s => ?_, fun _ => rfl⟩
  · obtain ⟨t, -, -, hexec, hbusy, -⟩ := exec_responds i s
    exact ⟨t, hexec, hbusy⟩
  · exact ⟨_, illegalRequest_eq op s, respond_busy _ _⟩

/-- How many responses a block has shown. -/
def responses (s : State) : Nat := (s.trace.filter isResponse).length

theorem responses_of_trace {s t : State} {events : List Event} {a : Response}
    (htrace : t.trace = s.trace ++ events ++ [.response a]) (hquiet : ∀ e ∈ events, isResponse e = false) :
    responses t = responses s + 1 := by
  have hnone : events.filter isResponse = [] := by simpa using hquiet
  simp [responses, htrace, hnone, List.filter_cons, isResponse]

/-- A step with a word waiting takes that word, frees the port again and shows one more response, whether the word is
an instruction or illegal. -/
theorem step_serves {s : State} {w : Request} {rest : List Request} (hbusy : s.busy = false)
    (hreq : s.requests = w :: rest) :
    ∃ t, step s = .next t ∧ t.busy = false ∧ t.requests = rest ∧ responses t = responses s + 1 := by
  have haccept := accept_waiting hbusy hreq
  cases hdec : decode w with
  | instr i =>
    obtain ⟨t, events, a, hexec, hfree, hrest, htrace, hquiet⟩ :=
      exec_responds i (startOperation { s with requests := rest, busy := true })
    exact ⟨t, (step_of_instr haccept hdec).trans hexec, hfree, hrest, responses_of_trace htrace hquiet⟩
  | illegalOp op =>
    refine ⟨_, (step_of_illegalOp haccept hdec).trans (illegalRequest_eq op _), rfl, rfl, ?_⟩
    exact responses_of_trace (events := []) (a := (Err.illegalOp op).response) (by simp) (by simp)

theorem run_succ_of_step {s t : State} (h : step s = .next t) (k : Nat) :
    Host.Core.run core (k + 1) s = Host.Core.run core k t := by
  have hcore : core.step s = .next t := h
  simp only [Host.Core.run, hcore]

/-- As many steps as words wait serve them all. -/
theorem run_serves (waiting : List Request) (s : State) (hbusy : s.busy = false) (hreq : s.requests = waiting) :
    ∃ t, Host.Core.run core waiting.length s = .next t ∧ t.requests = [] ∧ t.busy = false ∧
      responses t = responses s + waiting.length := by
  induction waiting generalizing s with
  | nil => exact ⟨s, rfl, hreq, hbusy, rfl⟩
  | cons w rest ih =>
    obtain ⟨u, hstep, hfree, hrest, hone⟩ := step_serves hbusy hreq
    obtain ⟨t, hrun, hempty, hidle, hcount⟩ := ih u hfree hrest
    refine ⟨t, (run_succ_of_step hstep _).trans hrun, hempty, hidle, ?_⟩
    rw [hcount, hone, List.length_cons]
    omega

/-- Settles O14, by induction on the waiting words. -/
theorem allRequestsServed : Obligations.AllRequestsServed := by
  unfold Obligations.AllRequestsServed
  intro s hbusy
  exact run_serves s.requests s hbusy rfl

/-! ### `seq` (10_state.md R26) -/

/-- Counted from a `seq` of 0, `seq` ends as the number of ACKed transactions shown; the response is not one. -/
theorem exec_counts {i : Instr} {s : State} (hzero : (countsFrom i s).seq = 0) :
    ∃ t events, exec i s = .next t ∧ t.trace = s.trace ++ events ∧
      t.seq = (events.filter isAckedTx).length ∧ t.seq ≤ 24 := by
  obtain ⟨t, a, hexec, course⟩ := exec_ends i s
  obtain ⟨events, htrace, -, hseq⟩ := course.shown
  have hbound := course.bounded
  rw [hzero, Nat.zero_add] at hseq hbound
  refine ⟨respond a t, events ++ [.response a], hexec, ?_, ?_, hbound⟩
  · rw [respond_trace, htrace, countsFrom_trace, List.append_assoc]
  · simp [hseq, isAckedTx]

/-- Settles O51: every operation a step performs has been begun with `seq` 0, and those that send begin with it
themselves. -/
theorem seqCountsAckedTransactions : Obligations.SeqCountsAckedTransactions := by
  unfold Obligations.SeqCountsAckedTransactions
  refine ⟨fun s w rest i hbusy hreq hdec => ?_, fun i s hsender => exec_counts (countsFrom_seq_of_sender hsender s)⟩
  rw [step_of_instr (accept_waiting hbusy hreq) hdec]
  exact exec_counts (countsFrom_startOperation_seq i _)

/-! ### The reset line (10_state.md R27, 42_init_sequence.md R122) -/

theorem exec_poweron_rstOut {s : State} (h : s.cfg.hasRst = true) :
    ∃ t, exec .poweron s = .next t ∧ t.rstOut = some .high := by
  refine ⟨_, rfl, ?_⟩
  simp [Result.complete, h, resetPulse]

theorem exec_rstOut_of_not_drivesLine {i : Instr} {s : State} (h : drivesLine i s = false) :
    ∃ t, exec i s = .next t ∧ t.rstOut = s.rstOut := by
  obtain ⟨t, a, hexec, course⟩ := exec_ends i s
  exact ⟨respond a t, hexec, (course.line h).trans (countsFrom_rstOut i s)⟩

/-- Settles O50: the reset pulse ends high, and every other course leaves the line. -/
theorem resetLineOnlyByPoweron : Obligations.ResetLineOnlyByPoweron := by
  unfold Obligations.ResetLineOnlyByPoweron
  intro i s
  by_cases h : i = .poweron ∧ s.cfg.hasRst = true
  · obtain ⟨rfl, hrst⟩ := h
    simpa [hrst] using exec_poweron_rstOut hrst
  · rw [if_neg h]
    exact exec_rstOut_of_not_drivesLine (decide_eq_false h)

/-! ### What an operation depends on (10_state.md R25, R29) -/

/-- The same operation performed twice, begun in `s₀` and in `s₀'`, has come to `s` and to `s'`. The two agree but for
the record of the ports, to which both performances have added the same events, for the words that wait, which neither
has touched, and for `fsm`, which agrees too if the performances began with the `sameFsm`. -/
structure InStep (sameFsm : Prop) (s₀ s₀' s s' : State) : Prop where
  cfg       : s'.cfg = s.cfg
  fb        : s'.fb = s.fb
  fsm       : sameFsm → s'.fsm = s.fsm
  seq       : s'.seq = s.seq
  busy      : s'.busy = s.busy
  rstOut    : s'.rstOut = s.rstOut
  requests  : s.requests = s₀.requests
  requests' : s'.requests = s₀'.requests
  trace     : ∃ events, s.trace = s₀.trace ++ events ∧ s'.trace = s₀'.trace ++ events
  answers   : s'.answers = s.answers
  draws     : s'.draws = s.draws

/-- Two performances that are in step differ in `fsm`, in the record and in the waiting words only. -/
theorem InStep.eq {sameFsm : Prop} {s₀ s₀' s s' : State} (h : InStep sameFsm s₀ s₀' s s') :
    s' = { s with fsm := s'.fsm, requests := s'.requests, trace := s'.trace } := by
  obtain ⟨hcfg, hfb, -, hseq, hbusy, hrst, -, -, -, hans, hdraws⟩ := h
  rw [← hcfg, ← hfb, ← hseq, ← hbusy, ← hrst, ← hans, ← hdraws]

/-- Both performances go on, or both raise the same error. -/
inductive InStepResult (sameFsm : Prop) (s₀ s₀' : State) : Result → Result → Prop where
  | done {s s' : State} (h : InStep sameFsm s₀ s₀' s s') : InStepResult sameFsm s₀ s₀' (.done s) (.done s')
  | raised (e : Err) {s s' : State} (h : InStep sameFsm s₀ s₀' s s') :
      InStepResult sameFsm s₀ s₀' (.raised e s) (.raised e s')

/-- Both performances end in a next state, and these are in step. -/
def InStepOutcome (sameFsm : Prop) (s₀ s₀' : State) (o o' : Host.Outcome State Fault Refusal) : Prop :=
  ∃ t t', o = .next t ∧ o' = .next t' ∧ InStep sameFsm s₀ s₀' t t'

section
variable {sameFsm : Prop} {s₀ s₀' s s' : State}

theorem InStep.setSeq (h : InStep sameFsm s₀ s₀' s s') (n : Nat) :
    InStep sameFsm s₀ s₀' (setSeq n s) (setSeq n s') := { h with seq := rfl }

theorem InStep.setFsm (h : InStep sameFsm s₀ s₀' s s') (f : Fsm) :
    InStep sameFsm s₀ s₀' (setFsm f s) (setFsm f s') := { h with fsm := fun _ => rfl }

/-- INVERT alone reads `fsm`, and for `fsm` only. -/
theorem InStep.invertFsm (h : InStep sameFsm s₀ s₀' s s') (flag : Bool) :
    InStep sameFsm s₀ s₀' (Machine.setFsm (invertFsm flag s.fsm) s) (Machine.setFsm (invertFsm flag s'.fsm) s') :=
  { h with fsm := fun same => congrArg (Machine.invertFsm flag) (h.fsm same) }

theorem InStep.store (h : InStep sameFsm s₀ s₀' s s') {m m' : Memory} (hm : m' = m) :
    InStep sameFsm s₀ s₀' { s with fb := m } { s' with fb := m' } := { h with fb := hm }

theorem InStep.memRead (h : InStep sameFsm s₀ s₀' s s') (i : Nat) : memRead i s' = memRead i s := by
  rw [Machine.memRead, h.fb, Machine.memRead]

theorem InStep.emit (h : InStep sameFsm s₀ s₀' s s') (e : Event) :
    InStep sameFsm s₀ s₀' (emit e s) (emit e s') := by
  obtain ⟨events, hs, hs'⟩ := h.trace
  exact { h with trace := ⟨events ++ [e], by simp [hs], by simp [hs']⟩ }

theorem InStep.driveRst (h : InStep sameFsm s₀ s₀' s s') (l : Level) :
    InStep sameFsm s₀ s₀' (driveRst l s) (driveRst l s') :=
  InStep.emit (s := { s with rstOut := some l }) (s' := { s' with rstOut := some l }) { h with rstOut := rfl } _

theorem InStep.resetPulse (h : InStep sameFsm s₀ s₀' s s') :
    InStep sameFsm s₀ s₀' (resetPulse s) (resetPulse s') :=
  (((((h.driveRst _).emit _).driveRst _).emit _).driveRst _).emit _

theorem InStep.respond (h : InStep sameFsm s₀ s₀' s s') (a : Response) :
    InStep sameFsm s₀ s₀' (respond a s) (respond a s') :=
  InStep.emit (s := { s with busy := false }) (s' := { s' with busy := false }) { h with busy := rfl } _

/-- The platform answers both performances alike, so both see the same transaction. -/
theorem InStep.answerAt (h : InStep sameFsm s₀ s₀' s s') (k : Nat) : answerAt s' k = answerAt s k :=
  answerAt_congr h.answers h.draws k

theorem InStep.takeAnswer (h : InStep sameFsm s₀ s₀' s s') :
    InStep sameFsm s₀ s₀' (takeAnswer s) (takeAnswer s') where
  cfg := by simpa using h.cfg
  fb := by simpa using h.fb
  fsm := by simpa using h.fsm
  seq := by simpa using h.seq
  busy := by simpa using h.busy
  rstOut := by simpa using h.rstOut
  requests := by simpa using h.requests
  requests' := by simpa using h.requests'
  trace := by simpa using h.trace
  answers := by simp [h.answers]
  draws := by simp [h.answers, h.draws]

theorem InStep.busTx (h : InStep sameFsm s₀ s₀' s s') (bytes : List Byte) :
    InStep sameFsm s₀ s₀' (busTx bytes s) (busTx bytes s') := by
  unfold Machine.busTx
  rw [h.cfg, h.answerAt 0]
  exact h.takeAnswer.emit _

theorem InStep.sendFrame (h : InStep sameFsm s₀ s₀' s s') (bytes : List Byte) :
    InStepResult sameFsm s₀ s₀' (sendFrame bytes s) (sendFrame bytes s') := by
  cases ha : Machine.answerAt s 0 with
  | ack =>
    rw [sendFrame_ack ha, sendFrame_ack ((h.answerAt 0).trans ha), h.seq]
    exact .done ((h.busTx bytes).setSeq _)
  | fail =>
    rw [sendFrame_fail ha, sendFrame_fail ((h.answerAt 0).trans ha), h.seq]
    exact .raised _ (h.busTx bytes)

theorem InStepResult.andThen {r r' : Result} {f f' : State → Result} (hr : InStepResult sameFsm s₀ s₀' r r')
    (hf : ∀ {t t'}, InStep sameFsm s₀ s₀' t t' → InStepResult sameFsm s₀ s₀' (f t) (f' t')) :
    InStepResult sameFsm s₀ s₀' (r.andThen f) (r'.andThen f') := by
  cases hr with
  | done h => exact hf h
  | raised e h => exact .raised e h

theorem InStep.sendCmds (h : InStep sameFsm s₀ s₀' s s') (bytes : List Byte) :
    InStepResult sameFsm s₀ s₀' (sendCmds bytes s) (sendCmds bytes s') := by
  induction bytes generalizing s s' with
  | nil => exact .done h
  | cons b rest ih => exact (h.sendFrame _).andThen ih

theorem InStep.sendData (h : InStep sameFsm s₀ s₀' s s') :
    InStepResult sameFsm s₀ s₀' (sendData s) (sendData s') := by
  have hframe : dataFrame s' = dataFrame s := by simp [dataFrame, h.fb, h.cfg]
  rw [Machine.sendData, Machine.sendData, hframe]
  exact h.sendFrame _

theorem InStep.check (h : InStep sameFsm s₀ s₀' s s') (e : Option Err) :
    InStepResult sameFsm s₀ s₀' (check e s) (check e s') := by
  cases e with
  | none => exact .done h
  | some e => exact .raised e h

theorem InStep.sendWindow (h : InStep sameFsm s₀ s₀' s s') (axis : Axis) (command : Byte) (start stop bound : Int) :
    InStepResult sameFsm s₀ s₀' (sendWindow axis command start stop bound s)
      (sendWindow axis command start stop bound s') :=
  ((h.setSeq 0).check _).andThen fun ht => ht.sendCmds _

/-- A buffer operation with its range check (40_buffer.md R85, R88, R92). -/
theorem InStep.guardedWrite (h : InStep sameFsm s₀ s₀' s s') (inside : Prop) [Decidable inside] (i : Nat) (v : Byte)
    (e : Err) :
    InStepResult sameFsm s₀ s₀' (if inside then .done (memWrite i v s) else .raised e s)
      (if inside then .done (memWrite i v s') else .raised e s') := by
  split
  · exact .done (h.store (by rw [h.fb]))
  · exact .raised e h

theorem InStepResult.finish {r r' : Result} (hr : InStepResult sameFsm s₀ s₀' r r') :
    InStepOutcome sameFsm s₀ s₀' (finish r) (finish r') := by
  cases hr with
  | done h => exact ⟨_, _, rfl, rfl, h.respond _⟩
  | raised e h => exact ⟨_, _, rfl, rfl, h.respond _⟩

/-- Every instruction keeps two performances in step: what it reads, configuration, buffer, `seq` and the platform's
answers, is the same in both. -/
theorem InStep.exec (h : InStep sameFsm s₀ s₀' s s') (i : Instr) :
    InStepOutcome sameFsm s₀ s₀' (exec i s) (exec i s') := by
  cases i with
  | clear => exact InStepResult.finish (.done (h.store (by rw [h.cfg, h.fb])))
  | setpix x y c =>
    simp only [Machine.exec, execSetpix, h.cfg, h.memRead]
    exact (h.guardedWrite ..).finish
  | pixel x y c =>
    simp only [Machine.exec, execPixel, h.cfg, h.memRead]
    exact (h.guardedWrite ..).finish
  | wrbyte k v =>
    simp only [Machine.exec, execWrbyte, h.cfg]
    exact (h.guardedWrite ..).finish
  | wrcmd c => exact ((h.setSeq 0).sendFrame _).finish
  | display =>
    simp only [Machine.exec, execDisplay, h.cfg]
    exact (((h.setSeq 0).sendCmds _).andThen fun ht => ht.sendData).finish
  | poweron =>
    simp only [Machine.exec, execPoweron, h.cfg]
    have begun := (h.setSeq 0).setFsm .poweringOn
    refine InStepResult.finish (.done ?_)
    split
    · exact begun.resetPulse
    · exact begun.emit _
  | initdisp =>
    simp only [Machine.exec, execInitdisp, h.cfg]
    refine (((h.setSeq 0).sendCmds _).andThen fun hconf => ?_).finish
    exact ((hconf.setFsm .initialized).sendFrame _).andThen fun hshown => .done (hshown.setFsm .active)
  | poweroff => exact (((h.setSeq 0).sendFrame _).andThen fun hsent => .done (hsent.setFsm .off)).finish
  | contrast c => exact ((h.setSeq 0).sendCmds _).finish
  | invert c => exact (((h.setSeq 0).sendFrame _).andThen fun hsent => .done (hsent.invertFsm _)).finish
  | setcols start stop c => exact (h.sendWindow ..).finish
  | setpages start stop c =>
    simp only [Machine.exec, execSetpages, h.cfg]
    exact (h.sendWindow ..).finish

end

/-- Settles O36: performances from two values of `fsm` stay in step, and `fsm` is all in which the states differ. -/
theorem fsmGatesNothing : Obligations.FsmGatesNothing := by
  unfold Obligations.FsmGatesNothing
  intro i s f
  have begun : InStep False s { s with fsm := f } s { s with fsm := f } :=
    ⟨rfl, rfl, nofun, rfl, rfl, rfl, rfl, rfl, ⟨[], by simp⟩, rfl, rfl⟩
  obtain ⟨t, t', hs, hs', ended⟩ := begun.exec i
  obtain ⟨events, htrace, htrace'⟩ := ended.trace
  refine ⟨t, t'.fsm, hs, hs'.trans (congrArg _ ?_)⟩
  calc t' = { t with fsm := t'.fsm, requests := t'.requests, trace := t'.trace } := ended.eq
    _ = { t with fsm := t'.fsm } := by
      rw [htrace', ended.requests', ← htrace, ← ended.requests]

/-- Settles O48: performances after two records, with different words waiting, stay in step and show the same. -/
theorem earlierResponsesDoNotMatter : Obligations.EarlierResponsesDoNotMatter := by
  unfold Obligations.EarlierResponsesDoNotMatter
  intro i s before waiting
  have begun : InStep True s { s with trace := before, requests := waiting } s
      { s with trace := before, requests := waiting } :=
    ⟨rfl, rfl, fun _ => rfl, rfl, rfl, rfl, rfl, rfl, ⟨[], by simp⟩, rfl, rfl⟩
  obtain ⟨t, t', hs, hs', ended⟩ := begun.exec i
  obtain ⟨events, htrace, htrace'⟩ := ended.trace
  refine ⟨t, events, hs, htrace, hs'.trans (congrArg _ ?_)⟩
  calc t' = { t with fsm := t'.fsm, requests := t'.requests, trace := t'.trace } := ended.eq
    _ = { t with trace := before ++ events, requests := waiting } := by
      rw [htrace', ended.requests', ended.fsm trivial]

end Sys2Proof.Proofs

/-! ## The frame buffer (20_memory.md): its canonical form, the bit-pixel mapper and what every step keeps of it -/

namespace Sys2Proof.Proofs

open Sys2Proof.Machine Sys2Proof.Safety Sys2Proof.Laws

/-! ### The canonical form determines the data (20_memory.md R38) -/

theorem read_head (cell : Host.Cell) (rest : Memory) : Memory.read (cell :: rest) cell.1 = cell.2 :=
  if_pos rfl

/-- A listed cell that another canonical buffer reads the same is not below what that buffer lists, for there the buffer
reads as unlisted, and no listed cell does. -/
theorem bound_le_of_read_eq {j : Nat} {cell : Host.Cell} {n : Memory} (hcell : cell.2 ≠ Memory.unlisted cell.1)
    (hn : Memory.wfFrom j n = true) (hread : n.read cell.1 = cell.2) : j ≤ cell.1 :=
  Nat.le_of_not_lt fun hlt => hcell (hread.symm.trans (read_below hn hlt))

/-- A canonical buffer without its first cell reads as before but at that cell's index, which is now unlisted. -/
theorem read_tail {cell : Host.Cell} {rest : Memory} (h : Memory.wfFrom (cell.1 + 1) rest = true) (i : Nat) :
    rest.read i = if cell.1 = i then Memory.unlisted i else Memory.read (cell :: rest) i := by
  split
  · next heq => exact read_below h (by omega)
  · next hne => exact (if_neg hne).symm

theorem eq_of_read_eq {k : Nat} {m n : Memory} (hm : Memory.wfFrom k m = true) (hn : Memory.wfFrom k n = true)
    (hread : ∀ i, m.read i = n.read i) : m = n := by
  induction m generalizing k n with
  | nil =>
    cases n with
    | nil => rfl
    | cons cell' rest' =>
      obtain ⟨-, hlisted', -⟩ := wfFrom_cons.1 hn
      exact absurd ((read_head cell' rest').symm.trans (hread _).symm) hlisted'
  | cons cell rest ih =>
    obtain ⟨-, hlisted, hrest⟩ := wfFrom_cons.1 hm
    cases n with
    | nil => exact absurd ((read_head cell rest).symm.trans (hread _)) hlisted
    | cons cell' rest' =>
      obtain ⟨-, hlisted', hrest'⟩ := wfFrom_cons.1 hn
      have hle : cell'.1 ≤ cell.1 :=
        bound_le_of_read_eq hlisted (wfFrom_cons.2 ⟨Nat.le_refl _, hlisted', hrest'⟩)
          ((hread _).symm.trans (read_head cell rest))
      have hge : cell.1 ≤ cell'.1 :=
        bound_le_of_read_eq hlisted' (wfFrom_cons.2 ⟨Nat.le_refl _, hlisted, hrest⟩)
          ((hread _).trans (read_head cell' rest'))
      have hindex : cell.1 = cell'.1 := Nat.le_antisymm hge hle
      have hbyte : cell.2 = cell'.2 := by
        rw [← read_head cell rest, ← read_head cell' rest', hread, hindex]
      have htail : rest = rest' :=
        ih hrest (hindex ▸ hrest') fun i => by rw [read_tail hrest, read_tail hrest', hread, hindex]
      rw [Prod.ext hindex hbyte, htail]

/-- Settles O15, by induction on the cells: the first cells are at one index, and what follows them reads the same. -/
theorem canonicalBuffersAreEqual : Obligations.CanonicalBuffersAreEqual := by
  unfold Obligations.CanonicalBuffersAreEqual
  exact fun _ _ => eq_of_read_eq

/-! ### The bit-pixel mapper (20_memory.md R40 to R42) -/

theorem pixMap_eq (x y : Int) : pixMap x y = ((1 + x + y / 8 * 128).toNat, (1 : Byte) <<< (y % 8).toNat) := rfl

theorem bitMask_inj : ∀ n < 8, ∀ k < 8, (1 : Byte) <<< n = (1 : Byte) <<< k → n = k := by decide

theorem pixMap_index_bounds {c : Cfg} {x y : Int} (h : onPanel c x y) :
    1 ≤ (pixMap x y).1 ∧ (pixMap x y).1 < c.fbLen := by
  have hlen := fbLen_eq c
  have hpages := pages_mul c
  simp only [pixMap_eq, onPanel] at h ⊢
  omega

/-- The index gives the column and the page of a pixel, and the mask its row in the page. -/
theorem pixMap_inj {c : Cfg} {x y x' y' : Int} (h : onPanel c x y) (h' : onPanel c x' y')
    (heq : pixMap x y = pixMap x' y') : x = x' ∧ y = y' := by
  rw [pixMap_eq, pixMap_eq] at heq
  obtain ⟨hindex, hmask⟩ := Prod.mk.inj heq
  have hbit : (y % 8).toNat = (y' % 8).toNat := bitMask_inj _ (by omega) _ (by omega) hmask
  simp only [onPanel] at h h'
  omega

/-- Settles O18, by division with remainder. -/
theorem pixelMapInverse : Obligations.PixelMapInverse := by
  unfold Obligations.PixelMapInverse
  intro c i n hi hlen hn
  have hlen' := fbLen_eq c
  have hpages := pages_mul c
  have hpage : ((8 * ((i - 1) / 128) + n : Nat) : Int) / 8 = ((i - 1) / 128 : Nat) := by omega
  have hbit : (((8 * ((i - 1) / 128) + n : Nat) : Int) % 8).toNat = n := by omega
  refine ⟨by simp only [onPanel]; omega, ?_⟩
  rw [pixMap_eq, hpage, hbit]
  exact Prod.ext (by simp only; omega) rfl

/-- Settles O17: the range and the injectivity are arithmetic, and the inverse of O18 reaches every pair. -/
theorem pixelMapIsBijection : Obligations.PixelMapIsBijection := by
  unfold Obligations.PixelMapIsBijection
  intro c
  refine ⟨fun x y h => ?_, fun _ _ _ _ => pixMap_inj, fun i n hi hlen hn => ?_, ?_⟩
  · obtain ⟨hlow, hhigh⟩ := pixMap_index_bounds h
    exact ⟨hlow, hhigh, (y % 8).toNat, by omega, rfl⟩
  · exact ⟨_, _, pixelMapInverse c i n hi hlen hn⟩
  · have hlen := fbLen_eq c
    have hpages := pages_mul c
    omega

/-! ### What an operation keeps of the buffer and of the record (20_memory.md R38, R50; 30_encoding.md R65) -/

/-- What holds of a block with configuration `c` at every point of an operation: the buffer is canonical, inside its
bound and has its marker, and every transaction shown has one of the two frame shapes. -/
structure SoundFor (c : Cfg) (s : State) : Prop where
  cfg       : s.cfg = c
  canonical : s.fb.wf = true
  inside    : s.fb.within c.fbLen = true
  marker    : s.fb.read 0 = Config.dataMarker
  shown     : ∀ e ∈ s.trace, wellFormedTx c e

/-- The bytes of a transaction have one of the two shapes of 30_encoding.md R65. -/
def frameShape (c : Cfg) (bytes : List Byte) : Prop :=
  (∃ b, bytes = [0x80, b]) ∨ (bytes.length = c.fbLen ∧ bytes.head? = some 0x40)

theorem controlFrame_shape (c : Cfg) (b : Byte) : frameShape c (controlFrame b) := .inl ⟨b, rfl⟩

theorem fbLen_pos (c : Cfg) : 0 < c.fbLen := by
  have hlen := fbLen_eq c
  omega

section
variable {c : Cfg} {s : State}

/-- The marker makes the buffer a data frame. -/
theorem SoundFor.dataFrame_shape (h : SoundFor c s) : frameShape c (dataFrame s) := by
  refine .inr ⟨by rw [dataFrame, bytes_length, h.cfg], ?_⟩
  rw [dataFrame, List.head?_eq_getElem?, bytes_get _ _ (fbLen_pos s.cfg), h.marker]
  rfl

theorem SoundFor.setSeq (h : SoundFor c s) (n : Nat) : SoundFor c (setSeq n s) := { h with }

theorem SoundFor.setFsm (h : SoundFor c s) (f : Fsm) : SoundFor c (setFsm f s) := { h with }

/-- An operation that ends by moving `fsm`, as INITDISP, POWEROFF and INVERT do. -/
theorem SoundFor.thenFsm {r : Result} (h : SoundFor c (reached r)) (f : State → Fsm) :
    SoundFor c (reached (r.andThen fun t => .done (Machine.setFsm (f t) t))) :=
  andThen_keeps h fun t ht => ht.setFsm (f t)

theorem SoundFor.emit (h : SoundFor c s) {e : Event} (he : wellFormedTx c e) : SoundFor c (emit e s) :=
  { h with shown := by simpa [or_imp, forall_and] using And.intro h.shown he }

theorem SoundFor.driveRst (h : SoundFor c s) (l : Level) : SoundFor c (driveRst l s) :=
  SoundFor.emit (s := { s with rstOut := some l }) { h with } trivial

theorem SoundFor.delay (h : SoundFor c s) (ms : Nat) : SoundFor c (delay ms s) := h.emit trivial

theorem SoundFor.respond (h : SoundFor c s) (a : Response) : SoundFor c (respond a s) :=
  SoundFor.emit (s := { s with busy := false }) { h with } trivial

theorem SoundFor.resetPulse (h : SoundFor c s) : SoundFor c (resetPulse s) :=
  (((((h.driveRst _).delay _).driveRst _).delay _).driveRst _).delay _

theorem SoundFor.takeAnswer (h : SoundFor c s) : SoundFor c (takeAnswer s) where
  cfg := by simpa using h.cfg
  canonical := by simpa using h.canonical
  inside := by simpa using h.inside
  marker := by simpa using h.marker
  shown := by simpa using h.shown

theorem SoundFor.busTx (h : SoundFor c s) {bytes : List Byte} (hbytes : frameShape c bytes) :
    SoundFor c (busTx bytes s) :=
  h.takeAnswer.emit ⟨congrArg Cfg.addr h.cfg, hbytes⟩

theorem SoundFor.sendFrame (h : SoundFor c s) {bytes : List Byte} (hbytes : frameShape c bytes) :
    SoundFor c (reached (sendFrame bytes s)) := by
  cases ha : answerAt s 0 with
  | ack =>
    rw [sendFrame_ack ha]
    exact (h.busTx hbytes).setSeq _
  | fail =>
    rw [sendFrame_fail ha]
    exact h.busTx hbytes

theorem SoundFor.sendCmd (h : SoundFor c s) (b : Byte) : SoundFor c (reached (sendCmd b s)) :=
  h.sendFrame (controlFrame_shape c b)

theorem SoundFor.sendCmds (h : SoundFor c s) (bytes : List Byte) : SoundFor c (reached (sendCmds bytes s)) := by
  induction bytes generalizing s with
  | nil => exact h
  | cons b rest ih => exact andThen_keeps (h.sendCmd b) fun _ => ih

theorem SoundFor.sendWindow (h : SoundFor c s) (axis : Axis) (command : Byte) (start stop bound : Int) :
    SoundFor c (reached (sendWindow axis command start stop bound s)) :=
  andThen_keeps (by simpa using h.setSeq 0) fun _ ht => ht.sendCmds _

/-- CLEAR's sweep leaves the marker (40_buffer.md R84). -/
theorem SoundFor.clear (h : SoundFor c s) : SoundFor c { s with fb := s.fb.clearBelow s.cfg.fbLen } :=
  { h with
    canonical := clearBelow_wf h.canonical
    inside := clearBelow_within h.inside
    marker := (read_clearBelow _ _ 0).trans (if_pos (fbLen_pos s.cfg)) }

/-- A write in the pixel area keeps the bound and does not reach the marker (20_memory.md R50). -/
theorem SoundFor.memWrite (h : SoundFor c s) {i : Nat} (hlow : 1 ≤ i) (hhigh : i < c.fbLen) (v : Byte) :
    SoundFor c (memWrite i v s) :=
  { h with
    canonical := write_wf h.canonical i v
    inside := write_within h.inside hhigh v
    marker := by rw [memWrite_fb, read_write h.canonical, if_neg (by omega), h.marker] }

/-- SETPIX and PIXEL write only where the mapper leads from in-range coordinates (40_buffer.md R85, R88). -/
theorem SoundFor.pixelWrite (h : SoundFor c s) (x y : Int) (v : Byte) (e : Err) :
    SoundFor c (reached (if inRange s.cfg x y then .done (Machine.memWrite (pixMap x y).1 v s) else .raised e s)) := by
  split
  · next hin =>
    rw [h.cfg, inRange_iff] at hin
    obtain ⟨hlow, hhigh⟩ := pixMap_index_bounds hin
    exact h.memWrite hlow hhigh v
  · exact h

/-- WRBYTE writes inside the pixel area only (40_buffer.md R92). -/
theorem SoundFor.byteWrite (h : SoundFor c s) (i : Int) (v : Byte) (e : Err) :
    SoundFor c (reached (if byteInRange s.cfg i then .done (Machine.memWrite i.toNat v s) else .raised e s)) := by
  split
  · next hin =>
    rw [h.cfg, byteInRange_iff] at hin
    exact h.memWrite (by omega) (by omega) v
  · exact h

theorem SoundFor.finish {r : Result} (h : SoundFor c (reached r)) {t : State} (hfinish : finish r = .next t) :
    SoundFor c t := by
  obtain ⟨a, rfl⟩ := finish_eq_next hfinish
  exact h.respond a

/-- Every instruction keeps it: each is the end of an operation whose parts all keep it. -/
theorem SoundFor.exec (h : SoundFor c s) {i : Instr} {t : State} (hexec : exec i s = .next t) : SoundFor c t := by
  have begun : SoundFor c (Machine.setSeq 0 s) := h.setSeq 0
  cases i with
  | clear => exact SoundFor.finish (r := .done _) h.clear hexec
  | setpix x y v => exact (h.pixelWrite x y _ _).finish hexec
  | pixel x y v => exact (h.pixelWrite x y _ _).finish hexec
  | wrbyte k v => exact (h.byteWrite k v _).finish hexec
  | wrcmd b => exact (begun.sendCmd b).finish hexec
  | display =>
    exact SoundFor.finish (andThen_keeps (begun.sendCmds _) fun _ ht => ht.sendFrame ht.dataFrame_shape) hexec
  | poweron =>
    refine SoundFor.finish (r := .done _) ?_ hexec
    rw [reached_done]
    split
    · exact (begun.setFsm _).resetPulse
    · exact (begun.setFsm _).delay _
  | initdisp =>
    refine SoundFor.finish (andThen_keeps (begun.sendCmds _) fun _ hconf => ?_) hexec
    exact ((hconf.setFsm .initialized).sendCmd _).thenFsm fun _ => .active
  | poweroff => exact (begun.sendCmd _).thenFsm (fun _ => .off) |>.finish hexec
  | contrast b => exact (begun.sendCmds _).finish hexec
  | invert b => exact (begun.sendCmd _).thenFsm (fun t => invertFsm (truth b) t.fsm) |>.finish hexec
  | setcols start stop b => exact (h.sendWindow ..).finish hexec
  | setpages start stop b => exact (h.sendWindow ..).finish hexec

end

/-! ### The invariant -/

theorem soundFor_of_inv {s : State} (h : Inv s) : SoundFor s.cfg s :=
  ⟨rfl, h.canonical, h.inside, h.marker, h.shown⟩

theorem SoundFor.inv {c : Cfg} {s : State} (h : SoundFor c s) (line : s.rstOut.isSome = c.hasRst)
    (idle : s.busy = false) (bounded : s.seq ≤ 24) : Inv s := by
  obtain ⟨rfl, canonical, inside, marker, shown⟩ := h
  exact ⟨canonical, inside, marker, line, idle, bounded, shown⟩

/-- The reset line stays present exactly when configured (10_state.md R27). -/
theorem exec_line {i : Instr} {s t : State} (hexec : exec i s = .next t)
    (h : s.rstOut.isSome = s.cfg.hasRst) : t.rstOut.isSome = s.cfg.hasRst := by
  obtain ⟨u, hu, hline⟩ := resetLineOnlyByPoweron i s
  cases hexec.symm.trans hu
  split at hline
  · next hdrives => simp [hline, hdrives.2]
  · rw [hline, h]

/-- A begun operation ends with the invariant, and the port need not be free when it begins: the response frees it. -/
theorem exec_inv {c : Cfg} {s : State} (h : SoundFor c s) (hline : s.rstOut.isSome = c.hasRst) (i : Instr) :
    ∃ t, exec i (startOperation s) = .next t ∧ Inv t := by
  obtain rfl := h.cfg
  obtain ⟨t, -, hexec, -, -, hbound⟩ := exec_counts (countsFrom_startOperation_seq i s)
  obtain ⟨u, -, -, hexec', hidle, -⟩ := exec_responds i (startOperation s)
  cases hexec.symm.trans hexec'
  exact ⟨t, hexec, ((h.setSeq 0).exec hexec).inv (exec_line (s := startOperation s) hexec hline) hidle hbound⟩

theorem step_inv {s : State} (h : Inv s) : ∃ t, step s = .next t ∧ Inv t := by
  cases hreq : s.requests with
  | nil => exact ⟨s, step_of_accept_none (accept_of_no_request hreq), h⟩
  | cons w rest =>
    have haccept := accept_waiting h.idle hreq
    have accepted : SoundFor s.cfg { s with requests := rest, busy := true } := { soundFor_of_inv h with }
    cases hdec : decode w with
    | instr i =>
      rw [step_of_instr haccept hdec]
      exact exec_inv accepted h.line i
    | illegalOp op =>
      rw [step_of_illegalOp haccept hdec, illegalRequest_eq]
      exact ⟨_, rfl, (accepted.respond _).inv h.line rfl h.bounded⟩

/-- Settles O53: acceptance, every operation and the answer to an illegal request keep the invariant. -/
theorem stepKeepsInv : Obligations.StepKeepsInv := by
  unfold Obligations.StepKeepsInv
  exact fun _ => step_inv

/-- Every run keeps the invariant and the configuration. -/
theorem run_inv (n : Nat) {s : State} (h : Inv s) :
    ∃ t, Host.Core.run core n s = .next t ∧ Inv t ∧ t.cfg = s.cfg := by
  induction n generalizing s with
  | zero => exact ⟨s, rfl, h, rfl⟩
  | succ n ih =>
    obtain ⟨u, hstep, hu⟩ := step_inv h
    obtain ⟨t, hrun, ht, hcfg⟩ := ih hu
    exact ⟨t, (run_succ_of_step hstep n).trans hrun, ht, hcfg.trans (step_cfg hstep)⟩

/-- A constructed block meets the invariant, whatever waits and however the platform will answer. -/
theorem ofCfg_inv (c : Cfg) (requests : List Request) (answers : List BusAnswer) :
    Inv { State.ofCfg c with requests := requests, answers := answers } where
  canonical := rfl
  inside := rfl
  marker := rfl
  line := by
    simp only [State.ofCfg]
    cases c.hasRst <;> rfl
  idle := rfl
  bounded := Nat.zero_le 24
  shown := fun _ he => nomatch he

/-- Settles O54: the invariant holds from the construction on, along every run. -/
theorem transmissionsAlwaysWellFormed : Obligations.TransmissionsAlwaysWellFormed := by
  unfold Obligations.TransmissionsAlwaysWellFormed
  intro c requests answers n
  obtain ⟨t, hrun, hinv, (hcfg : t.cfg = c)⟩ := run_inv n (ofCfg_inv c requests answers)
  exact ⟨t, hrun, hinv.marker, hcfg, hcfg ▸ hinv.shown⟩

end Sys2Proof.Proofs

/-! ## The request word and the request port (30_encoding.md) -/

namespace Sys2Proof.Proofs

open Sys2Proof.Machine Sys2Proof.Safety Sys2Proof.Laws

/-! ### The decoder, row by row (30_encoding.md R58) -/

section
variable {w : Request}

theorem decode_clear (h : w.opField = 0x01) : decode w = .instr .clear := by
  simp [decode, h]

theorem decode_setpix (h : w.opField = 0x02) : decode w = .instr (.setpix w.aField w.bField w.cField) := by
  simp [decode, h]

theorem decode_pixel (h : w.opField = 0x03) : decode w = .instr (.pixel w.aField w.bField w.cField) := by
  simp [decode, h]

theorem decode_wrbyte (h : w.opField = 0x04) : decode w = .instr (.wrbyte w.aField w.cField) := by
  simp [decode, h]

theorem decode_wrcmd (h : w.opField = 0x10) : decode w = .instr (.wrcmd w.cField) := by
  simp [decode, h]

theorem decode_display (h : w.opField = 0x11) : decode w = .instr .display := by
  simp [decode, h]

theorem decode_poweron (h : w.opField = 0x20) : decode w = .instr .poweron := by
  simp [decode, h]

theorem decode_initdisp (h : w.opField = 0x21) : decode w = .instr .initdisp := by
  simp [decode, h]

theorem decode_poweroff (h : w.opField = 0x22) : decode w = .instr .poweroff := by
  simp [decode, h]

theorem decode_contrast (h : w.opField = 0x23) : decode w = .instr (.contrast w.cField) := by
  simp [decode, h]

theorem decode_invert (h : w.opField = 0x24) : decode w = .instr (.invert w.cField) := by
  simp [decode, h]

theorem decode_setcols (h : w.opField = 0x30) : decode w = .instr (.setcols w.aField w.bField w.cField) := by
  simp [decode, h]

theorem decode_setpages (h : w.opField = 0x31) : decode w = .instr (.setpages w.aField w.bField w.cField) := by
  simp [decode, h]

end

/-! ### The encoder in terms of the operands, and the round trip (30_encoding.md R71) -/

theorem encode_eq_packRequest (i : Instr) :
    encode i = packRequest i.opcode i.operands.1 i.operands.2.1 i.operands.2.2 := by
  cases i <;> rfl

/-- An omitted operand is 0, which fits; so an instruction is well-formed exactly when `a` and `b` fit. -/
theorem wellFormed_iff_operands_fit (i : Instr) :
    i.wellFormed = true ↔ operandFits i.operands.1 = true ∧ operandFits i.operands.2.1 = true := by
  have hzero : operandFits 0 = true := by decide
  cases i <;> simp [Instr.wellFormed, Instr.operands, hzero]

/-- The four fields of an instruction's row decode to that instruction. -/
theorem decode_of_fields {i : Instr} {w : Request} (hop : w.opField = i.opcode) (ha : w.aField = i.operands.1)
    (hb : w.bField = i.operands.2.1) (hc : w.cField = i.operands.2.2) : decode w = .instr i := by
  cases i with
  | clear => exact decode_clear hop
  | setpix x y c => rw [decode_setpix hop, ha, hb, hc]; rfl
  | pixel x y c => rw [decode_pixel hop, ha, hb, hc]; rfl
  | wrbyte k v => rw [decode_wrbyte hop, ha, hc]; rfl
  | wrcmd c => rw [decode_wrcmd hop, hc]; rfl
  | display => exact decode_display hop
  | poweron => exact decode_poweron hop
  | initdisp => exact decode_initdisp hop
  | poweroff => exact decode_poweroff hop
  | contrast c => rw [decode_contrast hop, hc]; rfl
  | invert c => rw [decode_invert hop, hc]; rfl
  | setcols start stop c => rw [decode_setcols hop, ha, hb, hc]; rfl
  | setpages start stop c => rw [decode_setpages hop, ha, hb, hc]; rfl

/-- Settles O1: each field of the packed word reads back the operand packed there, since the signed ones fit. -/
theorem decodeInvertsEncode : Obligations.DecodeInvertsEncode := by
  unfold Obligations.DecodeInvertsEncode
  intro i hwf
  obtain ⟨ha, hb⟩ := (wellFormed_iff_operands_fit i).1 hwf
  rw [encode_eq_packRequest]
  exact decode_of_fields (opField_pack ..) (aField_pack _ _ _ ha) (bField_pack _ _ _ hb) (cField_pack ..)

/-- Settles O8: the word placed is the one accepted, and it decodes to the instruction. -/
theorem placedWordIsPerformed : Obligations.PlacedWordIsPerformed := by
  unfold Obligations.PlacedWordIsPerformed
  intro s i hwf
  have hplaced : s.withFetchWord 48 (encode i).toNat = offer (encode i) { s with busy := false } := by
    rw [State.withFetchWord, Nat.mod_eq_of_lt (encode i).isLt, BitVec.ofNat_toNat, BitVec.setWidth_eq]
  rw [hplaced]
  exact stepPerformsDecodedRequest _ _ s.requests i rfl rfl (decodeInvertsEncode i hwf)

/-! ### Everything the decoder can answer (30_encoding.md R57, R59) -/

/-- A request word decodes to a well-formed instruction whose operation code is its OP, or it is rejected with its OP,
one of the illegal codes. -/
theorem decode_cases (w : Request) :
    (∃ i, decode w = .instr i ∧ i.opcode = w.opField ∧ i.wellFormed = true) ∨
      (decode w = .illegalOp w.opField ∧ illegalOpcode w.opField.toNat) := by
  have ha := fits_aField w
  have hab : (operandFits w.aField && operandFits w.bField) = true := Bool.and_eq_true_iff.2 ⟨ha, fits_bField w⟩
  have named {i : Instr} (hop : w.opField.toNat = i.opcode.toNat) (hwf : i.wellFormed = true) :
      ∃ j, Decoded.instr i = .instr j ∧ j.opcode = w.opField ∧ j.wellFormed = true :=
    ⟨i, rfl, (BitVec.eq_of_toNat_eq hop).symm, hwf⟩
  unfold decode
  split
  · next h => exact .inl (named h rfl)
  · next h => exact .inl (named h hab)
  · next h => exact .inl (named h hab)
  · next h => exact .inl (named h ha)
  · next h => exact .inl (named h rfl)
  · next h => exact .inl (named h rfl)
  · next h => exact .inl (named h rfl)
  · next h => exact .inl (named h rfl)
  · next h => exact .inl (named h rfl)
  · next h => exact .inl (named h rfl)
  · next h => exact .inl (named h rfl)
  · next h => exact .inl (named h hab)
  · next h => exact .inl (named h hab)
  · have hlt := w.opField.isLt
    refine .inr ⟨rfl, ?_⟩
    simp only [imp_false] at *
    omega

theorem opcode_not_illegal (i : Instr) : ¬ illegalOpcode i.opcode.toNat := by
  cases i <;> simp [Instr.opcode, illegalOpcode]

theorem decode_of_illegalOpcode {w : Request} (h : illegalOpcode w.opField.toNat) :
    decode w = .illegalOp w.opField := by
  rcases decode_cases w with ⟨i, -, hop, -⟩ | ⟨hdec, -⟩
  · exact absurd (hop ▸ h) (opcode_not_illegal i)
  · exact hdec

/-- Settles O2: the signed fields have 16 bits. -/
theorem decodedInstrIsWellFormed : Obligations.DecodedInstrIsWellFormed := by
  unfold Obligations.DecodedInstrIsWellFormed
  intro w i hdec
  rcases decode_cases w with ⟨j, hdec', -, hwf⟩ | ⟨hdec', -⟩
  · cases hdec.symm.trans hdec'
    exact hwf
  · cases hdec.symm.trans hdec'

/-- Settles O4: the answer to an illegal word is the response alone, and every other word decodes. -/
theorem illegalOpAnswersOnly : Obligations.IllegalOpAnswersOnly := by
  unfold Obligations.IllegalOpAnswersOnly
  refine ⟨fun s w rest hbusy hreq hillegal => ?_, fun w hlegal => ?_⟩
  · rw [step_of_illegalOp (accept_waiting hbusy hreq) (decode_of_illegalOpcode hillegal), illegalRequest_eq, hbusy]
    rfl
  · rcases decode_cases w with ⟨i, hdec, hop, -⟩ | ⟨-, hillegal⟩
    · exact ⟨i, hdec, hop⟩
    · exact absurd hillegal hlegal

/-- Settles O6: each example word, decoded. -/
theorem exampleWordsDecode : Obligations.ExampleWordsDecode := by
  unfold Obligations.ExampleWordsDecode
  exact ⟨by decide, by decide, by decide, by decide, by decide⟩

/-! ### The assembler's word in numbers (30_encoding.md R71) -/

/-- A word is the sum of its four fields, each at its place (30_encoding.md R56). -/
theorem toNat_eq_fields (w : Request) :
    w.toNat = w.opField.toNat * 2 ^ 40 + (w.extractLsb' 24 16).toNat * 2 ^ 24 +
      (w.extractLsb' 8 16).toNat * 2 ^ 8 + w.cField.toNat := by
  have hlt := w.isLt
  simp only [Request.opField, Request.cField, BitVec.extractLsb'_toNat, Nat.shiftRight_eq_div_pow]
  omega

theorem toNat_packRequest (op : Byte) (a b : Int) (c : Byte) :
    (packRequest op a b c).toNat =
      op.toNat * 2 ^ 40 + (a % 65536).toNat * 2 ^ 24 + (b % 65536).toNat * 2 ^ 8 + c.toNat := by
  rw [toNat_eq_fields, opField_pack, aBits_pack, bBits_pack, cField_pack]
  rfl

theorem operandFits_iff (v : Int) : operandFits v = true ↔ -32768 ≤ v ∧ v ≤ 32767 :=
  decide_eq_true_iff

theorem assemble_of_fits (op : Byte) {a b c : Int} (ha : operandFits a = true) (hb : operandFits b = true)
    (hc : 0 ≤ c ∧ c ≤ 255) : assemble op a b c = some (packRequest op a b (BitVec.ofInt 8 c)) := by
  simp [assemble, ha, hb, hc]

theorem assemble_of_not_fits (op : Byte) {a b c : Int}
    (h : ¬ (operandFits a = true ∧ operandFits b = true ∧ 0 ≤ c ∧ c ≤ 255)) : assemble op a b c = none := by
  simp only [assemble, Bool.and_eq_true, decide_eq_true_eq, and_assoc]
  exact if_neg h

/-- Settles O3: the word is the sum of its fields, the range check is the assembler's own, and the encoder packs the
same fields. -/
theorem assemblerWordFormula : Obligations.AssemblerWordFormula := by
  unfold Obligations.AssemblerWordFormula
  refine ⟨fun op a b c halow hahigh hblow hbhigh hclow hchigh => ?_, fun op a b c hout => ?_, fun i hwf => ?_⟩
  · refine ⟨_, assemble_of_fits op ((operandFits_iff a).2 ⟨halow, hahigh⟩) ((operandFits_iff b).2 ⟨hblow, hbhigh⟩)
      ⟨hclow, hchigh⟩, ?_⟩
    have hbyte : (BitVec.ofInt 8 c).toNat = c.toNat := by
      rw [BitVec.toNat_ofInt]
      omega
    rw [toNat_packRequest, hbyte]
  · refine assemble_of_not_fits op ?_
    rw [operandFits_iff, operandFits_iff]
    omega
  · obtain ⟨ha, hb⟩ := (wellFormed_iff_operands_fit i).1 hwf
    have hlt := i.operands.2.2.isLt
    rw [assemble_of_fits _ ha hb ⟨by omega, by omega⟩, BitVec.ofInt_natCast, BitVec.ofNat_toNat, BitVec.setWidth_eq,
      encode_eq_packRequest]

/-! ### Fields that an operation does not use (30_encoding.md R60) -/

theorem aField_packRequest_eq (op : Byte) (a b b' : Int) (c c' : Byte) :
    (packRequest op a b c).aField = (packRequest op a b' c').aField := by
  simp only [Request.aField, aBits_pack]

/-- A window setter reads `c[0]`, and its end operand only when that bit is 0. -/
theorem windowStop_congr {c c' : Byte} {stop stop' : Int} (hflag : c.getLsbD 0 = c'.getLsbD 0)
    (hstop : c.getLsbD 0 = true ∨ stop = stop') (bound : Int) :
    windowStop c stop bound = windowStop c' stop' bound := by
  cases hbit : c.getLsbD 0 with
  | true => rw [windowStop_set hbit, windowStop_set (hflag ▸ hbit)]
  | false =>
    rw [windowStop_clear hbit, windowStop_clear (hflag ▸ hbit)]
    exact hstop.resolve_left (ne_true_of_eq_false hbit)

theorem truth_of_ne_zero {c : Byte} (h : c ≠ 0) : truth c = true := by
  simpa [truth] using h

theorem execSetpix_congr {c c' : Byte} (h : truth c = truth c') (x y : Int) (s : State) :
    execSetpix x y c s = execSetpix x y c' s := by
  simp only [execSetpix, h]

theorem execInvert_congr {c c' : Byte} (h : truth c = truth c') (s : State) : execInvert c s = execInvert c' s := by
  simp only [execInvert, h]

/-- Settles O5: each row's decode and meaning name only the fields it uses. -/
theorem unusedFieldsHaveNoEffect : Obligations.UnusedFieldsHaveNoEffect := by
  unfold Obligations.UnusedFieldsHaveNoEffect
  refine ⟨fun op a b a' b' c c' hop => ?_, fun a b b' c => ?_, fun op a b a' b' c hop => ?_,
    fun x y c c' s => rfl, fun start stop stop' c c' s hflag hstop => ?_, fun x y c s hc => ?_⟩
  · rcases hop with rfl | rfl | rfl | rfl | rfl
    · rw [decode_clear (opField_pack ..), decode_clear (opField_pack ..)]
    · rw [decode_display (opField_pack ..), decode_display (opField_pack ..)]
    · rw [decode_poweron (opField_pack ..), decode_poweron (opField_pack ..)]
    · rw [decode_initdisp (opField_pack ..), decode_initdisp (opField_pack ..)]
    · rw [decode_poweroff (opField_pack ..), decode_poweroff (opField_pack ..)]
  · rw [decode_wrbyte (opField_pack ..), decode_wrbyte (opField_pack ..), cField_pack, cField_pack,
      aField_packRequest_eq 0x04 a b b' c c]
  · rcases hop with rfl | rfl | rfl
    · rw [decode_wrcmd (opField_pack ..), decode_wrcmd (opField_pack ..), cField_pack, cField_pack]
    · rw [decode_contrast (opField_pack ..), decode_contrast (opField_pack ..), cField_pack, cField_pack]
    · rw [decode_invert (opField_pack ..), decode_invert (opField_pack ..), cField_pack, cField_pack]
  · exact ⟨congrArg (fun e => finish (sendWindow _ _ start e _ s)) (windowStop_congr hflag hstop _),
      congrArg (fun e => finish (sendWindow _ _ start e _ s)) (windowStop_congr hflag hstop _)⟩
  · have htruth : truth c = truth 1 := truth_of_ne_zero hc
    exact ⟨execSetpix_congr htruth x y s, execInvert_congr htruth s⟩

/-! ### The one response (30_encoding.md R69) -/

/-- A response that an operation can give: `(0x00, none)`, or that of an error. -/
def IsAnswer (a : Response) : Prop := a = Response.ok ∨ ∃ e : Err, a = e.response

/-- Only success has the status 0x00, and only success has no record (60_exceptions.md R153). -/
theorem IsAnswer.status_eq_zero_iff {a : Response} (h : IsAnswer a) : a.status = 0x00 ↔ a.info = .none := by
  have herr (e : Err) : e.code ≠ 0x00 ∧ e.info ≠ .none := by
    cases e with
    | window axis bound value low high => cases axis <;> cases bound <;> exact ⟨by simp [Err.code], nofun⟩
    | _ => exact ⟨by simp [Err.code], nofun⟩
  obtain rfl | ⟨e, rfl⟩ := h
  · exact iff_of_true rfl rfl
  · exact iff_of_false (herr e).1 (herr e).2

theorem finish_answers (r : Result) : ∃ a, IsAnswer a ∧ finish r = .next (respond a (reached r)) := by
  cases r with
  | done s => exact ⟨_, .inl rfl, rfl⟩
  | raised e s => exact ⟨_, .inr ⟨e, rfl⟩, rfl⟩

/-- What is shown for one accepted request: events that are no response, and then the one response. -/
def AnsweredOnce (s t : State) : Prop :=
  ∃ events a, t.trace = s.trace ++ events ++ [.response a] ∧ (∀ e ∈ events, isResponse e = false) ∧ IsAnswer a

theorem exec_answersOnce (i : Instr) (s : State) :
    ∃ t, exec i s = .next t ∧ t.requests = s.requests ∧ AnsweredOnce s t := by
  obtain ⟨r, hexec, course⟩ := exec_course i s
  obtain ⟨events, htrace, hquiet, -⟩ := course.shown
  obtain ⟨a, ha, hfinish⟩ := finish_answers r
  refine ⟨_, hexec.trans hfinish, ?_, events, a, ?_, hquiet, ha⟩
  · rw [respond_requests, course.requests, countsFrom_requests]
  · rw [respond_trace, htrace, countsFrom_trace]

theorem illegalRequest_answersOnce (op : Byte) (s : State) :
    ∃ t, illegalRequest op s = .next t ∧ t.requests = s.requests ∧ AnsweredOnce s t :=
  ⟨_, illegalRequest_eq op s, rfl, [], (Err.illegalOp op).response, by simp, by simp, .inr ⟨_, rfl⟩⟩

/-- A step with a word waiting takes that word and answers it once, whether the word is an instruction or illegal. -/
theorem step_answersOnce {s : State} {w : Request} {rest : List Request} (hbusy : s.busy = false)
    (hreq : s.requests = w :: rest) : ∃ t, step s = .next t ∧ t.requests = rest ∧ AnsweredOnce s t := by
  have haccept := accept_waiting hbusy hreq
  cases hdec : decode w with
  | instr i =>
    rw [step_of_instr haccept hdec]
    exact exec_answersOnce i _
  | illegalOp op =>
    rw [step_of_illegalOp haccept hdec]
    exact illegalRequest_answersOnce op _

/-- Settles O47: every accepted request is answered once, by success or by an error. -/
theorem exactlyOneResponse : Obligations.ExactlyOneResponse := by
  unfold Obligations.ExactlyOneResponse
  intro s w rest hbusy hreq
  obtain ⟨t, hstep, hrest, events, a, htrace, hquiet, ha⟩ := step_answersOnce hbusy hreq
  exact ⟨t, events, a, hstep, hrest, htrace, by simpa using hquiet, ha.status_eq_zero_iff, ha⟩

/-! ### The frames an operation emits (30_encoding.md R65) -/

/-- On the way from `s` to `t` only transactions of the two frame shapes have been shown. -/
def ShowsFrames (s t : State) : Prop :=
  ∃ events, t.trace = s.trace ++ events ∧ ∀ e ∈ events, wellFormedTx s.cfg e

theorem ShowsFrames.of_trace_eq {s t : State} (h : t.trace = s.trace) : ShowsFrames s t :=
  ⟨[], by simp [h], by simp⟩

theorem ShowsFrames.emit {s t : State} (h : ShowsFrames s t) {e : Event} (he : wellFormedTx s.cfg e) :
    ShowsFrames s (emit e t) := by
  obtain ⟨events, htrace, hframes⟩ := h
  exact ⟨events ++ [e], by simp [htrace], by simpa [or_imp, forall_and] using And.intro hframes he⟩

/-- What a part of an operation that sends keeps from `s` on: the configuration and the buffer, which make the data
frame, and the shapes of the frames shown. It asks nothing of the buffer's form, unlike `SoundFor`: O34 has the
marker alone as its premise. -/
structure Framed (s t : State) : Prop where
  cfg   : t.cfg = s.cfg
  fb    : t.fb = s.fb
  shown : ShowsFrames s t

theorem Framed.refl (s : State) : Framed s s := ⟨rfl, rfl, .of_trace_eq rfl⟩

section
variable {s t : State}

theorem Framed.setSeq (h : Framed s t) (n : Nat) : Framed s (setSeq n t) := { h with }

theorem Framed.setFsm (h : Framed s t) (f : Fsm) : Framed s (setFsm f t) := { h with }

theorem Framed.emit (h : Framed s t) {e : Event} (he : wellFormedTx s.cfg e) : Framed s (emit e t) :=
  { h with shown := h.shown.emit he }

theorem Framed.delay (h : Framed s t) (ms : Nat) : Framed s (delay ms t) := h.emit trivial

theorem Framed.driveRst (h : Framed s t) (l : Level) : Framed s (driveRst l t) :=
  Framed.emit (t := { t with rstOut := some l }) { h with } trivial

theorem Framed.resetPulse (h : Framed s t) : Framed s (resetPulse t) :=
  (((((h.driveRst _).delay _).driveRst _).delay _).driveRst _).delay _

theorem Framed.takeAnswer (h : Framed s t) : Framed s (takeAnswer t) where
  cfg := by simpa using h.cfg
  fb := by simpa using h.fb
  shown := by simpa [ShowsFrames] using h.shown

theorem Framed.sendFrame (h : Framed s t) {bytes : List Byte} (hbytes : frameShape s.cfg bytes) :
    Framed s (reached (sendFrame bytes t)) := by
  have hsent : Framed s (busTx bytes t) := h.takeAnswer.emit ⟨congrArg Cfg.addr h.cfg, hbytes⟩
  cases ha : answerAt t 0 with
  | ack =>
    rw [sendFrame_ack ha]
    exact hsent.setSeq _
  | fail =>
    rw [sendFrame_fail ha]
    exact hsent

theorem Framed.sendCmd (h : Framed s t) (b : Byte) : Framed s (reached (sendCmd b t)) :=
  h.sendFrame (controlFrame_shape s.cfg b)

theorem Framed.sendCmds (h : Framed s t) (bytes : List Byte) : Framed s (reached (sendCmds bytes t)) := by
  induction bytes generalizing t with
  | nil => exact h
  | cons b rest ih => exact andThen_keeps (h.sendCmd b) fun _ => ih

/-- The marker makes the buffer a data frame. -/
theorem Framed.sendData (h : Framed s t) (hmarker : s.fb.read 0 = 0x40) : Framed s (reached (sendData t)) := by
  refine h.sendFrame (.inr ⟨by rw [dataFrame, bytes_length, h.cfg], ?_⟩)
  rw [dataFrame, List.head?_eq_getElem?, bytes_get _ _ (fbLen_pos t.cfg), h.fb, hmarker]

theorem Framed.sendWindow (h : Framed s t) (axis : Axis) (command : Byte) (start stop bound : Int) :
    Framed s (reached (sendWindow axis command start stop bound t)) :=
  andThen_keeps (by simpa using h.setSeq 0) fun _ ht => ht.sendCmds _

/-- An operation that ends by moving `fsm`, as INITDISP, POWEROFF and INVERT do. -/
theorem Framed.thenFsm {r : Result} (h : Framed s (reached r)) (f : State → Fsm) :
    Framed s (reached (r.andThen fun t => .done (Machine.setFsm (f t) t))) :=
  andThen_keeps h fun t ht => ht.setFsm (f t)

end

theorem guardedWrite_trace (inside : Prop) [Decidable inside] (i : Nat) (v : Byte) (e : Err) (s : State) :
    (reached (if inside then .done (memWrite i v s) else .raised e s)).trace = s.trace := by
  split <;> rfl

/-- Before its response an operation shows only such frames: those of 40_buffer.md show nothing, and every other keeps
the buffer that DISPLAY sends. -/
theorem exec_showsFrames (i : Instr) {s : State} (hmarker : s.fb.read 0 = 0x40) :
    ∃ r, exec i s = finish r ∧ ShowsFrames s (reached r) := by
  have begun : Framed s (setSeq 0 s) := (Framed.refl s).setSeq 0
  cases i with
  | clear => exact ⟨_, rfl, .of_trace_eq rfl⟩
  | setpix x y c => exact ⟨_, rfl, .of_trace_eq (guardedWrite_trace ..)⟩
  | pixel x y c => exact ⟨_, rfl, .of_trace_eq (guardedWrite_trace ..)⟩
  | wrbyte k v => exact ⟨_, rfl, .of_trace_eq (guardedWrite_trace ..)⟩
  | wrcmd c => exact ⟨_, rfl, (begun.sendCmd c).shown⟩
  | display => exact ⟨_, rfl, (andThen_keeps (begun.sendCmds _) fun _ ht => ht.sendData hmarker).shown⟩
  | poweron =>
    refine ⟨_, rfl, ?_⟩
    rw [reached_done]
    split
    · exact (begun.setFsm _).resetPulse.shown
    · exact ((begun.setFsm _).delay _).shown
  | initdisp =>
    refine ⟨_, rfl, (andThen_keeps (begun.sendCmds _) fun _ hconf => ?_).shown⟩
    exact ((hconf.setFsm .initialized).sendCmd _).thenFsm fun _ => .active
  | poweroff => exact ⟨_, rfl, ((begun.sendCmd _).thenFsm fun _ => .off).shown⟩
  | contrast c => exact ⟨_, rfl, (begun.sendCmds _).shown⟩
  | invert c => exact ⟨_, rfl, ((begun.sendCmd _).thenFsm fun t => invertFsm (truth c) t.fsm).shown⟩
  | setcols start stop c => exact ⟨_, rfl, ((Framed.refl s).sendWindow ..).shown⟩
  | setpages start stop c => exact ⟨_, rfl, ((Framed.refl s).sendWindow ..).shown⟩

/-- Settles O34: the response that ends an operation is no transaction. -/
theorem onlyTwoFrameShapes : Obligations.OnlyTwoFrameShapes := by
  unfold Obligations.OnlyTwoFrameShapes
  intro i s t hmarker hexec
  obtain ⟨r, hfinish, hshown⟩ := exec_showsFrames i hmarker
  obtain ⟨a, rfl⟩ := finish_eq_next (hfinish.symm.trans hexec)
  exact ShowsFrames.emit (t := { reached r with busy := false }) hshown trivial

end Sys2Proof.Proofs

/-! ## The frame-buffer operations (40_buffer.md): what each writes, leaves and answers -/

namespace Sys2Proof.Proofs

open Sys2Proof.Machine Sys2Proof.Safety Sys2Proof.Laws

/-! ### One bit of a byte -/

/-- The byte with bit `n` set or cleared (40_buffer.md R85). -/
def withBit (on : Bool) (n : Nat) (b : Byte) : Byte :=
  if on then b ||| (1 : Byte) <<< n else b &&& ~~~((1 : Byte) <<< n)

theorem getLsbD_bitMask {n : Nat} (hn : n < 8) (k : Nat) : ((1 : Byte) <<< n).getLsbD k = decide (k = n) :=
  (BitVec.getLsbD_twoPow n k).trans (by simp [hn, eq_comm])

theorem getLsbD_withBit {n : Nat} (hn : n < 8) (on : Bool) (b : Byte) (k : Nat) :
    (withBit on n b).getLsbD k = if k = n then on else b.getLsbD k := by
  cases on with
  | true =>
    simp only [withBit, if_true, BitVec.getLsbD_or, getLsbD_bitMask hn]
    split <;> simp [*]
  | false =>
    have hwidth : b.getLsbD k = true → k < 8 := BitVec.lt_of_getLsbD
    simp only [withBit, Bool.false_eq_true, if_false, BitVec.getLsbD_and, BitVec.getLsbD_not, getLsbD_bitMask hn]
    split
    · next hk => simp [hk]
    · next hk => simpa [hk] using hwidth

theorem withBit_withBit {n : Nat} (hn : n < 8) (on before : Bool) (b : Byte) :
    withBit on n (withBit before n b) = withBit on n b := by
  refine BitVec.eq_of_getLsbD_eq fun k _ => ?_
  simp only [getLsbD_withBit hn]
  split <;> rfl

theorem withBit_eq_self_iff {n : Nat} (hn : n < 8) (on : Bool) (b : Byte) :
    withBit on n b = b ↔ b.getLsbD n = on := by
  constructor
  · intro h
    rw [← h, getLsbD_withBit hn, if_pos rfl]
  · rintro rfl
    refine BitVec.eq_of_getLsbD_eq fun k _ => ?_
    rw [getLsbD_withBit hn]
    split
    · next hk => rw [hk]
    · rfl

theorem truth_eq (c : Byte) : truth c = decide (c ≠ 0) :=
  Bool.eq_iff_iff.2 (bne_iff_ne.trans decide_eq_true_iff.symm)

theorem withBit_truth (c : Byte) (n : Nat) (b : Byte) :
    withBit (truth c) n b = if c ≠ 0 then b ||| (1 : Byte) <<< n else b &&& ~~~((1 : Byte) <<< n) := by
  simp only [withBit, truth_eq, decide_eq_true_eq]

/-! ### How each operation ends -/

/-- The response `(ERR_BYTE_RANGE, i)` (60_exceptions.md R157). -/
def byteError (i : Int) : Response := { status := 0x03, info := .index i }

theorem exec_clear_eq (s : State) :
    exec .clear s = .next (answered { s with fb := s.fb.clearBelow s.cfg.fbLen } okResponse) := rfl

/-- PIXEL is SETPIX with a state operand that is true (40_buffer.md R90): the two meanings have the same check, and
SETPIX's choice between setting and clearing is made. -/
theorem exec_pixel_eq_setpix (x y : Int) (f : Byte) (s : State) : exec (.pixel x y f) s = exec (.setpix x y 1) s := rfl

/-- Settles O26: the code 0x05 is one of those that name no operation. -/
theorem pixelAgreesWithSetpix : Obligations.PixelAgreesWithSetpix := by
  unfold Obligations.PixelAgreesWithSetpix
  refine ⟨exec_pixel_eq_setpix, fun w hop => ?_⟩
  rw [decode_of_illegalOpcode (by rw [hop]; decide), hop]

section

variable {s : State} {x y : Int}

theorem exec_setpix_onPanel (h : onPanel s.cfg x y) (c : Byte) :
    exec (.setpix x y c) s = .next (answered (memWrite (pixMap x y).1
      (withBit (truth c) (y % 8).toNat (s.fb.read (pixMap x y).1)) s) okResponse) :=
  congrArg finish (if_pos ((inRange_iff _ x y).2 h))

theorem exec_setpix_offPanel (h : ¬ onPanel s.cfg x y) (c : Byte) :
    exec (.setpix x y c) s = .next (answered s (pixelError x y)) :=
  congrArg finish (if_neg (mt (inRange_iff _ x y).1 h))

theorem exec_wrbyte_inside {i : Int} (h : 1 ≤ i ∧ i < (s.cfg.fbLen : Int)) (v : Byte) :
    exec (.wrbyte i v) s = .next (answered (memWrite i.toNat v s) okResponse) :=
  congrArg finish (if_pos ((byteInRange_iff _ i).2 h))

theorem exec_wrbyte_outside {i : Int} (h : ¬ (1 ≤ i ∧ i < (s.cfg.fbLen : Int))) (v : Byte) :
    exec (.wrbyte i v) s = .next (answered s (byteError i)) :=
  congrArg finish (if_neg (mt (byteInRange_iff _ i).1 h))

end

/-- From every state with configuration `c` and buffer `m` the instruction leaves buffer `m'`, answers `r` and does
nothing else. -/
def EndsWith (i : Instr) (c : Cfg) (m m' : Memory) (r : Response) : Prop :=
  ∀ s : State, s.fb = m → s.cfg = c → exec i s = .next (answered { s with fb := m' } r)

/-- What an operation of 40_buffer.md can do: it completes and leaves some buffer, or it raises one of the two range
errors and leaves the buffer. -/
def CompletesOrRefuses (i : Instr) (c : Cfg) (m : Memory) : Prop :=
  (∃ m', EndsWith i c m m' okResponse) ∨ ∃ r, (r.status = 0x02 ∨ r.status = 0x03) ∧ EndsWith i c m m r

theorem setpix_completesOrRefuses (x y : Int) (v : Byte) (c : Cfg) (m : Memory) :
    CompletesOrRefuses (.setpix x y v) c m := by
  by_cases h : onPanel c x y
  · refine .inl ⟨m.write (pixMap x y).1 (withBit (truth v) (y % 8).toNat (m.read (pixMap x y).1)), ?_⟩
    rintro s rfl rfl
    exact exec_setpix_onPanel h v
  · refine .inr ⟨pixelError x y, .inl rfl, ?_⟩
    rintro s rfl rfl
    exact exec_setpix_offPanel h v

theorem wrbyte_completesOrRefuses (k : Int) (v : Byte) (c : Cfg) (m : Memory) :
    CompletesOrRefuses (.wrbyte k v) c m := by
  by_cases h : 1 ≤ k ∧ k < (c.fbLen : Int)
  · refine .inl ⟨m.write k.toNat v, ?_⟩
    rintro s rfl rfl
    exact exec_wrbyte_inside h v
  · refine .inr ⟨byteError k, .inr rfl, ?_⟩
    rintro s rfl rfl
    exact exec_wrbyte_outside h v

theorem pixel_completesOrRefuses (x y : Int) (f : Byte) (c : Cfg) (m : Memory) :
    CompletesOrRefuses (.pixel x y f) c m := by
  simpa only [CompletesOrRefuses, EndsWith, exec_pixel_eq_setpix] using setpix_completesOrRefuses x y 1 c m

theorem bufferOp_completesOrRefuses {i : Instr} (hi : isBufferOp i = true) (c : Cfg) (m : Memory) :
    CompletesOrRefuses i c m := by
  cases i with
  | clear =>
    refine .inl ⟨m.clearBelow c.fbLen, ?_⟩
    rintro s rfl rfl
    exact exec_clear_eq s
  | setpix x y v => exact setpix_completesOrRefuses x y v c m
  | pixel x y v => exact pixel_completesOrRefuses x y v c m
  | wrbyte k v => exact wrbyte_completesOrRefuses k v c m
  | wrcmd | display | poweron | initdisp | poweroff | contrast | invert | setcols | setpages => cases hi

/-- Settles O28: how the operation ends rests on the buffer and the configuration only. -/
theorem bufferOperationsTouchOnlyBuffer : Obligations.BufferOperationsTouchOnlyBuffer := by
  unfold Obligations.BufferOperationsTouchOnlyBuffer
  intro i s hi
  rcases bufferOp_completesOrRefuses hi s.cfg s.fb with ⟨m, hends⟩ | ⟨r, hstatus, hends⟩
  · exact ⟨_, okResponse, hends s rfl rfl, rfl, by decide, fun herr => absurd rfl herr, hends⟩
  · refine ⟨_, r, hends s rfl rfl, rfl, ?_, fun _ => rfl, hends⟩
    rcases hstatus with h | h <;> rw [h] <;> decide

/-! ### CLEAR (40_buffer.md R84) -/

/-- Settles O19, by what CLEAR's sweep reads as. -/
theorem clearZeroesBuffer : Obligations.ClearZeroesBuffer := by
  unfold Obligations.ClearZeroesBuffer
  intro s
  refine ⟨_, exec_clear_eq s, ?_, fun i hlow hhigh => ?_, fun i hge => ?_, rfl⟩
  · exact (read_clearBelow _ _ 0).trans (if_pos (fbLen_pos s.cfg))
  · exact ((read_clearBelow _ _ i).trans (if_pos hhigh)).trans (if_neg (by omega))
  · exact (read_clearBelow _ _ i).trans (if_neg (by omega))

/-- The first part of CLEAR's loop: each of the first `n` indices set to 0x00. -/
def zeroBelow (n : Nat) (m : Memory) : Memory := (List.range n).foldl (fun acc i => acc.write i 0) m

theorem zeroBelow_succ (n : Nat) (m : Memory) : zeroBelow (n + 1) m = (zeroBelow n m).write n 0 := by
  simp [zeroBelow, List.range_succ]

theorem clearLoop_eq (n : Nat) (m : Memory) : m.clearLoop n = (zeroBelow n m).write 0 Config.dataMarker := rfl

theorem zeroBelow_wf {m : Memory} (h : m.wf = true) (n : Nat) : (zeroBelow n m).wf = true := by
  induction n with
  | zero => exact h
  | succ n ih =>
    rw [zeroBelow_succ]
    exact write_wf ih n 0

theorem read_zeroBelow {m : Memory} (h : m.wf = true) (n j : Nat) :
    (zeroBelow n m).read j = if j < n then 0 else m.read j := by
  induction n with
  | zero => rfl
  | succ n ih =>
    rw [zeroBelow_succ, read_write (zeroBelow_wf h n), ih]
    split
    · next heq => rw [if_pos (by omega)]
    · next hne => simp only [show j < n + 1 ↔ j < n by omega]

/-- The loop leaves what the sweep leaves: both are canonical and read the same. -/
theorem clearLoop_eq_clearBelow {m : Memory} (h : m.wf = true) {n : Nat} (hn : 0 < n) :
    m.clearLoop n = m.clearBelow n := by
  rw [clearLoop_eq]
  refine canonicalBuffersAreEqual _ _ (write_wf (zeroBelow_wf h n) _ _) (clearBelow_wf h) fun j => ?_
  rw [read_write (zeroBelow_wf h n), read_zeroBelow h, read_clearBelow]
  by_cases hj : j = 0
  · rw [if_pos hj, if_pos (by omega), hj]
    rfl
  · rw [if_neg hj, Memory.unlisted, if_neg hj]

/-- Settles O16: the buffer has at least the marker's byte, so the loop's last write falls in the sweep. -/
theorem clearIsItsLoop : Obligations.ClearIsItsLoop := by
  unfold Obligations.ClearIsItsLoop
  intro s hwf
  rw [exec_clear_eq, clearLoop_eq_clearBelow hwf (fbLen_pos s.cfg)]

/-! ### SETPIX and PIXEL (40_buffer.md R85 to R90) -/

/-- SETPIX or PIXEL in range has gone from `s` to `t`: it has set or cleared the one bit of its pixel and answered OK. -/
structure PixelWritten (on : Bool) (x y : Int) (s t : State) : Prop where
  canonical : t.fb.wf = true
  frame     : t = answered { s with fb := t.fb } okResponse
  byte      : t.fb.read (pixMap x y).1 = withBit on (y % 8).toNat (s.fb.read (pixMap x y).1)
  others    : ∀ a, a ≠ (pixMap x y).1 → t.fb.read a = s.fb.read a

section

variable {s t u : State} {x y : Int} {on on' : Bool}

theorem setpix_written (hwf : s.fb.wf = true) (h : onPanel s.cfg x y) (c : Byte) :
    ∃ t, exec (.setpix x y c) s = .next t ∧ PixelWritten (truth c) x y s t := by
  refine ⟨_, exec_setpix_onPanel h c, write_wf hwf _ _, rfl, ?_, fun a ha => ?_⟩
  · exact (read_write hwf _ _ _).trans (if_pos rfl)
  · exact (read_write hwf _ _ _).trans (if_neg ha)

theorem pixel_written (hwf : s.fb.wf = true) (h : onPanel s.cfg x y) (c : Byte) :
    ∃ t, exec (.pixel x y c) s = .next t ∧ PixelWritten true x y s t := by
  rw [exec_pixel_eq_setpix]
  exact setpix_written hwf h 1

theorem PixelWritten.cfg (h : PixelWritten on x y s t) : t.cfg = s.cfg :=
  (congrArg State.cfg h.frame).trans (answered_cfg _ _)

theorem pixelBit_lt_eight (y : Int) : (y % 8).toNat < 8 := by omega

theorem PixelWritten.bit (h : PixelWritten on x y s t) (n : Nat) :
    (t.fb.read (pixMap x y).1).getLsbD n =
      if n = (y % 8).toNat then on else (s.fb.read (pixMap x y).1).getLsbD n := by
  rw [h.byte, getLsbD_withBit (pixelBit_lt_eight y)]

/-- Of two writes of one pixel the second decides. -/
theorem PixelWritten.trans_byte (h : PixelWritten on x y s t) (h' : PixelWritten on' x y t u) :
    u.fb.read (pixMap x y).1 = withBit on' (y % 8).toNat (s.fb.read (pixMap x y).1) := by
  rw [h'.byte, h.byte, withBit_withBit (pixelBit_lt_eight y)]

/-- The mapper's index in numbers (20_memory.md R40). -/
theorem eq_pixMap_index_iff {c : Cfg} (h : onPanel c x y) (a : Nat) :
    a = (pixMap x y).1 ↔ (a : Int) = 1 + x + y / 8 * 128 := by
  simp only [pixMap_eq, onPanel] at h ⊢
  omega

theorem PixelWritten.read (h : PixelWritten on x y s t) (hin : onPanel s.cfg x y) (a : Nat) :
    t.fb.read a = if (a : Int) = 1 + x + y / 8 * 128 then withBit on (y % 8).toNat (s.fb.read a) else s.fb.read a := by
  simp only [← eq_pixMap_index_iff hin]
  split
  · next ha => rw [ha, h.byte]
  · next ha => exact h.others a ha

end

/-- Settles O20: the byte written is the one at the mapper's index in numbers. -/
theorem setpixWritesItsByte : Obligations.SetpixWritesItsByte := by
  unfold Obligations.SetpixWritesItsByte
  intro s x y c hwf
  refine ⟨fun hin => ?_, fun hout => exec_setpix_offPanel hout c⟩
  obtain ⟨t, hexec, written⟩ := setpix_written hwf hin c
  refine ⟨t, hexec, fun a => ?_, written.frame⟩
  rw [written.read hin, withBit_truth]

/-- Settles O23: PIXEL is SETPIX with state 1. -/
theorem pixelSetsItsByte : Obligations.PixelSetsItsByte := by
  unfold Obligations.PixelSetsItsByte
  intro s x y c hwf
  rw [exec_pixel_eq_setpix]
  exact setpixWritesItsByte s x y 1 hwf

/-- Settles O21, by the bits of the byte written. -/
theorem setpixTouchesOneBit : Obligations.SetpixTouchesOneBit := by
  unfold Obligations.SetpixTouchesOneBit
  intro s x y c hwf hin
  obtain ⟨t, hexec, written⟩ := setpix_written hwf hin c
  refine ⟨t, hexec, written.others, fun n hn => ?_, ?_⟩
  · rw [written.bit, if_neg hn]
  · rw [written.bit, if_pos rfl, truth_eq]

/-- Settles O22: the pair leaves the byte with the bit cleared, which is the byte itself when the bit was clear. -/
theorem setpixPairRestoresWhenClear : Obligations.SetpixPairRestoresWhenClear := by
  unfold Obligations.SetpixPairRestoresWhenClear
  intro s x y hwf hin
  obtain ⟨t, hset, written⟩ := setpix_written hwf hin 1
  obtain ⟨u, hclear, written'⟩ := setpix_written written.canonical (written.cfg ▸ hin) 0
  have hbyte : u.fb.read (pixMap x y).1 = withBit false (y % 8).toNat (s.fb.read (pixMap x y).1) :=
    written.trans_byte written'
  refine ⟨t, u, hset, hclear, ?_, ?_, fun n hn => ?_⟩
  · rw [hbyte, withBit_eq_self_iff (pixelBit_lt_eight y)]
  · rw [hbyte, getLsbD_withBit (pixelBit_lt_eight y), if_pos rfl]
  · rw [hbyte, getLsbD_withBit (pixelBit_lt_eight y), if_neg hn]

/-- Settles O24: the second write finds its bit set, so the two canonical buffers read the same. -/
theorem pixelOnlySetsAndIsIdempotent : Obligations.PixelOnlySetsAndIsIdempotent := by
  unfold Obligations.PixelOnlySetsAndIsIdempotent
  intro s x y c c' hwf hin
  obtain ⟨t, hexec, written⟩ := pixel_written hwf hin c
  obtain ⟨u, hexec', written'⟩ := pixel_written written.canonical (written.cfg ▸ hin) c'
  refine ⟨t, u, hexec, hexec', ?_, fun a n hbit => ?_⟩
  · refine canonicalBuffersAreEqual _ _ written'.canonical written.canonical fun a => ?_
    by_cases ha : a = (pixMap x y).1
    · rw [ha, written.trans_byte written', written.byte]
    · exact written'.others a ha
  · by_cases ha : a = (pixMap x y).1
    · subst ha
      rw [written.bit]
      split
      · rfl
      · exact hbit
    · rw [written.others a ha, hbit]

/-! ### WRBYTE (40_buffer.md R91, R92) -/

theorem read_memWrite_toNat {s : State} (hwf : s.fb.wf = true) {i : Int} (hi : 0 ≤ i) (v : Byte) (a : Nat) :
    (memWrite i.toNat v s).fb.read a = if (a : Int) = i then v else s.fb.read a := by
  rw [memWrite_fb, read_write hwf]
  simp only [show a = i.toNat ↔ (a : Int) = i by omega]

/-- Settles O27: the two ranges of the statement are the byte check and its negation. -/
theorem wrbyteWritesItsByte : Obligations.WrbyteWritesItsByte := by
  unfold Obligations.WrbyteWritesItsByte
  intro s i v hwf
  refine ⟨fun hlow hhigh => ?_, fun hout => exec_wrbyte_outside (by omega) v⟩
  exact ⟨_, exec_wrbyte_inside ⟨hlow, hhigh⟩ v, read_memWrite_toNat hwf (by omega) v, rfl⟩

/-! ### Writes in sequence (40_buffer.md R93) -/

/-- After the operation the buffer is canonical and reads as the array after the same write. -/
def ActsOnArray (i : Instr) (s : State) : Prop :=
  ∃ t, exec i s = .next t ∧ t.fb.wf = true ∧ t.fb.read = arrayWrite s.cfg s.fb.read i

theorem setpix_actsOnArray {s : State} (hwf : s.fb.wf = true) (x y : Int) (c : Byte) :
    ActsOnArray (.setpix x y c) s := by
  by_cases hin : onPanel s.cfg x y
  · obtain ⟨t, hexec, written⟩ := setpix_written hwf hin c
    refine ⟨t, hexec, written.canonical, funext fun a => ?_⟩
    rw [written.read hin, withBit_truth]
    simp only [arrayWrite, and_iff_right hin]
  · exact ⟨_, exec_setpix_offPanel hin c, hwf, funext fun a => (if_neg fun h => hin h.1).symm⟩

/-- In the array too PIXEL writes what SETPIX with state 1 writes. -/
theorem arrayWrite_pixel_eq_setpix (c : Cfg) (bytes : Nat → Byte) (x y : Int) (f : Byte) :
    arrayWrite c bytes (.pixel x y f) = arrayWrite c bytes (.setpix x y 1) := rfl

theorem pixel_actsOnArray {s : State} (hwf : s.fb.wf = true) (x y : Int) (f : Byte) : ActsOnArray (.pixel x y f) s := by
  simpa only [ActsOnArray, exec_pixel_eq_setpix, arrayWrite_pixel_eq_setpix] using setpix_actsOnArray hwf x y 1

theorem wrbyte_actsOnArray {s : State} (hwf : s.fb.wf = true) (i : Int) (v : Byte) : ActsOnArray (.wrbyte i v) s := by
  by_cases hin : 1 ≤ i ∧ i < (s.cfg.fbLen : Int)
  · refine ⟨_, exec_wrbyte_inside hin v, write_wf hwf _ _, funext fun a => ?_⟩
    rw [answered_fb, read_memWrite_toNat hwf (by omega)]
    simp only [arrayWrite, hin, true_and]
  · exact ⟨_, exec_wrbyte_outside hin v, hwf, funext fun a => (if_neg fun h => hin ⟨h.1, h.2.1⟩).symm⟩

theorem write_actsOnArray {i : Instr} (hi : writesOneByte i = true) {s : State} (hwf : s.fb.wf = true) :
    ActsOnArray i s := by
  cases i with
  | setpix x y c => exact setpix_actsOnArray hwf x y c
  | pixel x y c => exact pixel_actsOnArray hwf x y c
  | wrbyte k v => exact wrbyte_actsOnArray hwf k v
  | clear | wrcmd | display | poweron | initdisp | poweroff | contrast | invert | setcols | setpages => cases hi

theorem runAll_cons {i : Instr} {s t : State} (hexec : exec i s = .next t) (rest : List Instr) :
    runAll (i :: rest) s = runAll rest t := by
  simp only [runAll, hexec]

/-- Settles O29, by induction on the instructions: each keeps the canonical form and the configuration. -/
theorem bufferWritesActAsArray : Obligations.BufferWritesActAsArray := by
  unfold Obligations.BufferWritesActAsArray
  intro is
  induction is with
  | nil => exact fun s hwf _ => ⟨s, rfl, hwf, fun _ => rfl⟩
  | cons i rest ih =>
    intro s hwf hwrites
    obtain ⟨hi, hrest⟩ := List.forall_mem_cons.1 hwrites
    obtain ⟨t, hexec, hwf', hread⟩ := write_actsOnArray hi hwf
    rw [runAll_cons hexec, List.foldl_cons, ← hread, ← exec_cfg hexec]
    exact ih t hwf' hrest

end Sys2Proof.Proofs

/-! ## The framer's operations (41_protocol.md): what each sends, and how a failed transaction ends it -/

namespace Sys2Proof.Proofs

open Sys2Proof.Machine Sys2Proof.Safety Sys2Proof.Laws

/-! ### How a list of control frames ends an operation (41_protocol.md R101, R103) -/

/-- The response to an operation that has used `n` answers since its `seq <- 0`, and moved `fsm` nowhere. -/
theorem respond_sent_begun (s : State) (n q : Nat) (events : List Event) (a : Response) :
    respond a (sent (setSeq 0 s) n q events) = afterBus s n q s.fsm events a := rfl

theorem finish_sendCmds_allAck {s : State} {n : Nat} (bytes : List Byte) (hn : bytes.length = n) (h : allAck s n) :
    finish (sendCmds bytes (setSeq 0 s)) =
      .next (afterBus s n n s.fsm (ackedFrames s.cfg bytes) okResponse) := by
  rw [sendCmds_begun_allAck bytes hn h, finish_done, respond_sent_begun]
  rfl

theorem finish_sendCmds_failsAt {s : State} {k : Nat} (bytes : List Byte) (hk : k < bytes.length) (h : failsAt s k) :
    finish (sendCmds bytes (setSeq 0 s)) =
      .next (afterBus s (k + 1) k s.fsm (failedFrames s.cfg bytes k) (busError k)) := by
  rw [sendCmds_begun_failsAt bytes hk h, finish_raised, respond_sent_begun]
  rfl

/-! ### WRCMD (41_protocol.md R100) -/

theorem exec_wrcmd_eq (c : Byte) (s : State) : exec (.wrcmd c) s = finish (sendCmds [c] (setSeq 0 s)) :=
  congrArg finish (sendCmd_eq_sendCmds c _)

/-- Settles O30: WRCMD is a list of one control frame. -/
theorem wrcmdSendsOneFrame : Obligations.WrcmdSendsOneFrame := by
  unfold Obligations.WrcmdSendsOneFrame
  intro s c
  rw [exec_wrcmd_eq]
  exact ⟨finish_sendCmds_allAck [c] rfl, finish_sendCmds_failsAt [c] Nat.one_pos⟩

/-! ### The window check (43_window.md R141) -/

theorem checkWindow_inside {start stop bound : Int} (h : 0 ≤ start ∧ start ≤ stop ∧ stop ≤ bound) (axis : Axis) :
    checkWindow axis start stop bound = none := by
  rw [checkWindow, if_neg (by omega), if_neg (by omega)]

theorem window_code {axis : Axis} {bound : Bound} {value low high : Int} :
    (Err.window axis bound value low high).code ≠ 0x04 := by
  cases axis <;> cases bound <;> simp [Err.code]

theorem checkWindow_code {axis : Axis} {start stop bound : Int} {e : Err}
    (h : checkWindow axis start stop bound = some e) : e.code ≠ 0x04 := by
  unfold checkWindow at h
  split at h
  · cases h
    exact window_code
  · split at h
    · cases h
      exact window_code
    · cases h

/-- A setter whose operands pass the window check sends its three control frames (43_window.md R140 to R142). -/
theorem sendWindow_inside {start stop bound : Int} (h : 0 ≤ start ∧ start ≤ stop ∧ stop ≤ bound) (axis : Axis)
    (command : Byte) (s : State) :
    sendWindow axis command start stop bound s =
      sendCmds [command, boundByte start, boundByte stop] (setSeq 0 s) := by
  rw [sendWindow, checkWindow_inside h]
  rfl

/-! ### DISPLAY (41_protocol.md R104, R106) -/

theorem fullWindow_eq (c : Cfg) :
    fullWindow c = [0x21, 0, 127, 0x22, 0, BitVec.ofNat 8 (c.height.rows / 8 - 1)] := by
  unfold fullWindow Cfg.lastPage Cfg.pages
  cases c.height <;> rfl

theorem exec_display_eq (s : State) :
    exec .display s = finish ((sendCmds (fullWindow s.cfg) (setSeq 0 s)).andThen sendData) := rfl

section
variable {s : State}

/-- The window ACKed, what is left of DISPLAY is its data frame, of the buffer as it stood at the start. -/
theorem exec_display_of_window_allAck (h : allAck s 6) :
    exec .display s =
      finish (sendFrame (dataFrame s) (sent (setSeq 0 s) 6 6 (ackedFrames s.cfg (fullWindow s.cfg)))) := by
  rw [exec_display_eq, sendCmds_begun_allAck _ rfl h, andThen_done]
  rfl

theorem exec_display_allAck (h : allAck s 7) :
    exec .display s = .next (afterBus s 7 7 s.fsm
      (ackedFrames s.cfg (fullWindow s.cfg) ++ [.busTx s.cfg.addr (dataFrame s) .ack]) okResponse) := by
  have hdata : answerAt (setSeq 0 s) 6 = .ack := h 6 (by decide)
  rw [exec_display_of_window_allAck (allAck_mono h (by decide)), sendFrame_sent_ack hdata]
  rfl

theorem exec_display_failsAt_data (h : failsAt s 6) :
    exec .display s = .next (afterBus s 7 6 s.fsm
      (ackedFrames s.cfg (fullWindow s.cfg) ++ [.busTx s.cfg.addr (dataFrame s) .fail]) (busError 6)) := by
  have hdata : answerAt (setSeq 0 s) 6 = .fail := h.2
  rw [exec_display_of_window_allAck h.1, sendFrame_sent_fail hdata]
  rfl

/-- A failure in the window leaves DISPLAY nothing more to send. -/
theorem exec_display_failsAt_window {k : Nat} (hk : k < 6) (h : failsAt s k) :
    exec .display s = .next (afterBus s (k + 1) k s.fsm (failedFrames s.cfg (fullWindow s.cfg) k) (busError k)) := by
  rw [exec_display_eq, sendCmds_begun_failsAt _ hk h, andThen_raised, ← sendCmds_begun_failsAt _ hk h]
  exact finish_sendCmds_failsAt _ hk h

end

/-- Settles O31: DISPLAY's list of control frames, and then one frame more. -/
theorem displaySendsWindowAndBuffer : Obligations.DisplaySendsWindowAndBuffer := by
  unfold Obligations.DisplaySendsWindowAndBuffer
  intro s window buffer
  have hwindow : window = fullWindow s.cfg := (fullWindow_eq s.cfg).symm
  have hbuffer : buffer = dataFrame s := rfl
  rw [hwindow, hbuffer]
  exact ⟨exec_display_allAck, fun _ => exec_display_failsAt_window, exec_display_failsAt_data⟩

/-- What SETCOLS sends over all columns. -/
def allColumns : List Byte := [Cmd.columnRange, boundByte 0, boundByte lastColumn]

/-- What SETPAGES sends over all pages. -/
def allPages (c : Cfg) : List Byte := [Cmd.pageRange, boundByte 0, boundByte c.lastPage]

theorem exec_setcols_allColumns (s : State) :
    exec (.setcols 0 127 0) s = finish (sendCmds allColumns (setSeq 0 s)) :=
  congrArg finish (sendWindow_inside (by decide) _ _ s)

theorem exec_setpages_allPages {s : State} {c : Cfg} (hcfg : s.cfg = c) :
    exec (.setpages 0 ((c.height.rows : Int) / 8 - 1) 0) s = finish (sendCmds (allPages c) (setSeq 0 s)) := by
  subst hcfg
  have hlast : 0 ≤ s.cfg.lastPage := by
    rcases pages_cases s.cfg with h | h <;> simp [Cfg.lastPage, h]
  exact congrArg finish (sendWindow_inside ⟨Int.le_refl 0, hlast, Int.le_refl _⟩ _ _ s)

theorem fullWindow_eq_append (c : Cfg) : fullWindow c = allColumns ++ allPages c := rfl

theorem ackedFrames_append (c : Cfg) (xs ys : List Byte) :
    ackedFrames c (xs ++ ys) = ackedFrames c xs ++ ackedFrames c ys := List.map_append

/-- An operation that used `n` answers leaves the ones after them to the next. -/
theorem allAck_afterBus {s : State} {n m q : Nat} {f : Fsm} {events : List Event} {a : Response}
    (h : allAck s (n + m)) : allAck (afterBus s n q f events a) m :=
  fun k hk => (answerAt_sent s n q events k).trans (h (n + k) (by omega))

/-- Settles O32: DISPLAY's list is the column setter's followed by the page setter's. -/
theorem displayWindowIsTheSetters : Obligations.DisplayWindowIsTheSetters := by
  unfold Obligations.DisplayWindowIsTheSetters
  intro s hack
  have hcols := (exec_setcols_allColumns s).trans (finish_sendCmds_allAck _ rfl (allAck_mono hack (by decide)))
  have hack' : allAck (afterBus s 3 3 s.fsm (ackedFrames s.cfg allColumns) okResponse) 3 :=
    allAck_afterBus (allAck_mono (n := 7) hack (by decide))
  have hpages := (exec_setpages_allPages (afterBus_cfg s ..)).trans (finish_sendCmds_allAck _ rfl hack')
  refine ⟨_, _, _, ackedFrames s.cfg allColumns, ackedFrames s.cfg (allPages s.cfg),
    .busTx s.cfg.addr (dataFrame s) .ack, hcols, hpages, exec_display_allAck hack, rfl, rfl, ?_, rfl, rfl⟩
  simp [fullWindow_eq_append, ackedFrames_append]

/-! ### What an operation that sends does before a failure, and at one (41_protocol.md R103) -/

/-- What a part of an operation that sends has done on its way from `s` to `t` while no transaction of it failed: it
kept the configuration and the buffer, and `fsm` unless it is one that `moves` it; it showed events, and `seq` counted
the ACKed transactions among them. (`Course` counts through a failure as well.) -/
structure Unfailed (moves : Prop) (s t : State) : Prop where
  cfg   : t.cfg = s.cfg
  fb    : t.fb = s.fb
  fsm   : ¬ moves → t.fsm = s.fsm
  shown : ∃ events, t.trace = s.trace ++ events ∧ (∀ e ∈ events, isFailedTx e = false) ∧
    t.seq = s.seq + (events.filter isAckedTx).length

/-- How far an operation begun in `s` can be: no transaction failed and it goes on, or it has refused its operands; or
a transaction failed, and that raised ERR_BUS with the count so far. -/
inductive StopsAtFailure (moves : Prop) (s : State) : Result → Prop where
  | done {t : State} (h : Unfailed moves s t) : StopsAtFailure moves s (.done t)
  | refused {t : State} {e : Err} (h : Unfailed moves s t) (he : e.code ≠ 0x04) : StopsAtFailure moves s (.raised e t)
  | failed {t : State} (h : Unfailed moves s t) (bytes : List Byte) (hfail : answerAt t 0 = .fail) :
      StopsAtFailure moves s (.raised (.bus t.seq) (busTx bytes t))

theorem Unfailed.refl (moves : Prop) (s : State) : Unfailed moves s s :=
  ⟨rfl, rfl, fun _ => rfl, [], by simp, by simp, rfl⟩

section
variable {moves : Prop} {s t : State}

theorem Unfailed.setFsm (h : Unfailed moves s t) (hmoves : moves) (f : Fsm) : Unfailed moves s (setFsm f t) :=
  { h with fsm := fun hnot => absurd hmoves hnot }

/-- An event that is no transaction. -/
theorem Unfailed.emit (h : Unfailed moves s t) {e : Event} (hfail : isFailedTx e = false) (hack : isAckedTx e = false) :
    Unfailed moves s (emit e t) := by
  obtain ⟨events, htrace, hnone, hseq⟩ := h.shown
  refine { h with shown := ⟨events ++ [e], by simp [htrace], ?_, by simp [hseq, hack]⟩ }
  simpa [or_imp, forall_and] using And.intro hnone hfail

theorem Unfailed.delay (h : Unfailed moves s t) (ms : Nat) : Unfailed moves s (delay ms t) := h.emit rfl rfl

theorem Unfailed.driveRst (h : Unfailed moves s t) (l : Level) : Unfailed moves s (driveRst l t) :=
  Unfailed.emit (t := { t with rstOut := some l }) { h with } rfl rfl

theorem Unfailed.resetPulse (h : Unfailed moves s t) : Unfailed moves s (resetPulse t) :=
  (((((h.driveRst _).delay _).driveRst _).delay _).driveRst _).delay _

/-- An ACKed transaction is one more event, and `seq` counts it. -/
theorem Unfailed.acked (h : Unfailed moves s t) (bytes : List Byte) (hack : answerAt t 0 = .ack) :
    Unfailed moves s (setSeq (t.seq + 1) (busTx bytes t)) := by
  obtain ⟨events, htrace, hnone, hseq⟩ := h.shown
  refine ⟨by simpa using h.cfg, by simpa using h.fb, by simpa using h.fsm,
    events ++ [.busTx t.cfg.addr bytes .ack], by simp [htrace, hack], ?_, ?_⟩
  · simpa [or_imp, forall_and, isFailedTx] using hnone
  · rw [List.filter_append, List.length_append, setSeq_seq, hseq]
    rfl

theorem Unfailed.sendFrame (h : Unfailed moves s t) (bytes : List Byte) :
    StopsAtFailure moves s (sendFrame bytes t) := by
  cases ha : answerAt t 0 with
  | ack =>
    rw [sendFrame_ack ha]
    exact .done (h.acked bytes ha)
  | fail =>
    rw [sendFrame_fail ha]
    exact .failed h bytes ha

theorem StopsAtFailure.andThen {r : Result} {f : State → Result} (hr : StopsAtFailure moves s r)
    (hf : ∀ t, Unfailed moves s t → StopsAtFailure moves s (f t)) : StopsAtFailure moves s (r.andThen f) := by
  cases hr with
  | done h => exact hf _ h
  | refused h he => exact .refused h he
  | failed h bytes hfail => exact .failed h bytes hfail

/-- An operation that ends by moving `fsm`, as INITDISP, POWEROFF and INVERT do. -/
theorem StopsAtFailure.thenFsm {r : Result} (hr : StopsAtFailure moves s r) (hmoves : moves) (f : State → Fsm) :
    StopsAtFailure moves s (r.andThen fun t => .done (Machine.setFsm (f t) t)) :=
  hr.andThen fun t ht => .done (ht.setFsm hmoves (f t))

theorem Unfailed.sendCmds (h : Unfailed moves s t) (bytes : List Byte) :
    StopsAtFailure moves s (sendCmds bytes t) := by
  induction bytes generalizing t with
  | nil => exact .done h
  | cons b rest ih => exact (h.sendFrame _).andThen fun _ => ih

theorem sendWindow_stopsAtFailure (moves : Prop) (axis : Axis) (command : Byte) (start stop bound : Int) (s : State) :
    StopsAtFailure moves (setSeq 0 s) (sendWindow axis command start stop bound s) := by
  have hcheck : StopsAtFailure moves (setSeq 0 s) (check (checkWindow axis start stop bound) (setSeq 0 s)) := by
    cases h : checkWindow axis start stop bound with
    | none => exact .done (.refl moves _)
    | some e => exact .refused (.refl moves _) (checkWindow_code h)
  exact hcheck.andThen fun _ ht => ht.sendCmds _

end

/-- The operations that write `fsm` (10_state.md R24). -/
def movesFsm (i : Instr) : Prop := i = .poweron ∨ i = .initdisp ∨ i = .poweroff ∨ ∃ c, i = .invert c

/-- Every operation outside 40_buffer.md is of this kind, from its `seq <- 0` on. -/
theorem sender_stopsAtFailure {i : Instr} (hi : isBufferOp i = false) (s : State) :
    ∃ r, exec i s = finish r ∧ StopsAtFailure (movesFsm i) (setSeq 0 s) r := by
  have begun := Unfailed.refl (movesFsm i) (setSeq 0 s)
  cases i with
  | clear | setpix | pixel | wrbyte => cases hi
  | wrcmd c => exact ⟨_, rfl, begun.sendFrame _⟩
  | display => exact ⟨_, rfl, (begun.sendCmds _).andThen fun _ ht => ht.sendFrame _⟩
  | poweron =>
    have powering := begun.setFsm (.inl rfl) .poweringOn
    refine ⟨_, rfl, .done ?_⟩
    split
    · exact powering.resetPulse
    · exact powering.delay _
  | initdisp =>
    have moves : movesFsm .initdisp := .inr (.inl rfl)
    refine ⟨_, rfl, (begun.sendCmds _).andThen fun _ hconf => ?_⟩
    exact ((hconf.setFsm moves .initialized).sendFrame _).thenFsm moves fun _ => .active
  | poweroff => exact ⟨_, rfl, (begun.sendFrame _).thenFsm (.inr (.inr (.inl rfl))) fun _ => .off⟩
  | contrast c => exact ⟨_, rfl, begun.sendCmds _⟩
  | invert c =>
    exact ⟨_, rfl, (begun.sendFrame _).thenFsm (.inr (.inr (.inr ⟨c, rfl⟩))) fun t => invertFsm (truth c) t.fsm⟩
  | setcols start stop c => exact ⟨_, rfl, sendWindow_stopsAtFailure ..⟩
  | setpages start stop c => exact ⟨_, rfl, sendWindow_stopsAtFailure ..⟩

/-! ### A failed transaction ends its operation (41_protocol.md R103) -/

/-- What R103 says of the events `shown` before the response `a`. -/
def FailureIsLast (c : Cfg) (shown : List Event) (a : Response) : Prop :=
  (shown.all (fun e => !isFailedTx e) = true ∧ a.status ≠ 0x04) ∨
    ∃ before bytes, shown = before ++ [.busTx c.addr bytes .fail] ∧
      before.all (fun e => !isFailedTx e) = true ∧
      a = { status := 0x04, info := .acked (before.filter isAckedTx).length }

/-- The operation ends, and R103 holds of what it showed. -/
def EndsAtFailure (i : Instr) (s : State) : Prop :=
  ∃ t events a, exec i s = .next t ∧ t.trace = s.trace ++ events ++ [.response a] ∧ FailureIsLast s.cfg events a

theorem sender_endsAtFailure {i : Instr} (hi : isBufferOp i = false) (s : State) : EndsAtFailure i s := by
  obtain ⟨r, hexec, course⟩ := sender_stopsAtFailure hi s
  cases course with
  | done h =>
    obtain ⟨events, htrace, hnone, -⟩ := h.shown
    exact ⟨_, events, _, hexec, congrArg (· ++ _) htrace, .inl ⟨by simpa using hnone, by decide⟩⟩
  | refused h he =>
    obtain ⟨events, htrace, hnone, -⟩ := h.shown
    exact ⟨_, events, _, hexec, congrArg (· ++ _) htrace, .inl ⟨by simpa using hnone, he⟩⟩
  | @failed t h bytes hfail =>
    obtain ⟨before, htrace, hnone, hseq⟩ := h.shown
    have hcfg : t.cfg = s.cfg := h.cfg
    have hcount : t.seq = (before.filter isAckedTx).length := by simpa using hseq
    refine ⟨_, before ++ [.busTx s.cfg.addr bytes .fail], _, hexec, ?_,
      .inr ⟨before, bytes, rfl, by simpa using hnone, congrArg busError hcount⟩⟩
    have hresponse : (Err.bus t.seq).response = busError t.seq := rfl
    simp [Result.complete, htrace, hfail, hcfg, hresponse]

/-- The operations of 40_buffer.md show nothing but their response. -/
theorem bufferOp_endsAtFailure {i : Instr} (hi : isBufferOp i = true) (s : State) : EndsAtFailure i s := by
  obtain ⟨t, a, hexec, ht, hstatus, -⟩ := bufferOperationsTouchOnlyBuffer i s hi
  exact ⟨t, [], a, hexec, by simpa using congrArg State.trace ht, .inl ⟨rfl, hstatus⟩⟩

/-- Settles O33: a failed transaction raises ERR_BUS, and nothing follows a raise; no other error has that code. -/
theorem busFailureEndsOperation : Obligations.BusFailureEndsOperation := by
  unfold Obligations.BusFailureEndsOperation
  intro i s
  cases hi : isBufferOp i with
  | true => exact bufferOp_endsAtFailure hi s
  | false => exact sender_endsAtFailure hi s

/-! ### The frame of the operations that store nothing (41_protocol.md R100, R104) -/

/-- However it stops, such an operation has kept the buffer, and `fsm` unless it moves it. -/
theorem StopsAtFailure.keeps {moves : Prop} {s : State} {r : Result} (h : StopsAtFailure moves s r) :
    (reached r).fb = s.fb ∧ (¬ moves → (reached r).fsm = s.fsm) := by
  cases h with
  | done h => exact ⟨h.fb, h.fsm⟩
  | refused h he => exact ⟨h.fb, h.fsm⟩
  | failed h bytes hfail => exact ⟨by simpa using h.fb, by simpa using h.fsm⟩

/-- Settles O49: the buffer and `fsm` by how the operation stops; the rest each operation keeps anyway. -/
theorem commandOperationsFrame : Obligations.CommandOperationsFrame := by
  unfold Obligations.CommandOperationsFrame
  intro i s hi
  obtain ⟨r, hfinish, course⟩ := sender_stopsAtFailure hi s
  obtain ⟨hfb, hfsm⟩ := course.keeps
  obtain ⟨t, -, -, hexec, -, hrequests, -⟩ := exec_responds i s
  obtain ⟨u, hu, hline⟩ := resetLineOnlyByPoweron i s
  obtain rfl : t = u := by cases hexec.symm.trans hu; rfl
  obtain ⟨a, rfl⟩ := finish_eq_next (hfinish.symm.trans hexec)
  refine ⟨_, hexec, fun j => congrArg (Memory.read · j) hfb, hfb, exec_cfg hexec, hrequests, fun hon => ?_, ?_⟩
  · rw [hline, if_neg (by simp [hon])]
  · exact fun hon hinit hoff hinv => hfsm (by simp [movesFsm, hon, hinit, hoff, hinv])

end Sys2Proof.Proofs

/-! ## The initialization sequence (42_init_sequence.md): what each operation does, and how `fsm` follows -/

namespace Sys2Proof.Proofs

open Sys2Proof.Machine Sys2Proof.Safety Sys2Proof.Laws

/-! ### Operations that send control frames and then go on (42_init_sequence.md R127, R130, R133) -/

section
variable {s : State}

/-- A failure among the control frames is the whole outcome, whatever the operation would have done after them. -/
theorem finish_sendCmds_andThen_failsAt {k : Nat} (bytes : List Byte) (hk : k < bytes.length) (h : failsAt s k)
    (f : State → Result) :
    finish ((sendCmds bytes (setSeq 0 s)).andThen f) =
      .next (afterBus s (k + 1) k s.fsm (failedFrames s.cfg bytes k) (busError k)) := by
  rw [sendCmds_begun_failsAt bytes hk h, andThen_raised, ← sendCmds_begun_failsAt bytes hk h]
  exact finish_sendCmds_failsAt bytes hk h

/-- With its control frames ACKed, an operation that ends by moving `fsm` has moved it from where it stood. -/
theorem finish_sendCmds_thenFsm_allAck {n : Nat} (bytes : List Byte) (hn : bytes.length = n) (h : allAck s n)
    (move : Fsm → Fsm) :
    finish ((sendCmds bytes (setSeq 0 s)).andThen fun t => .done (setFsm (move t.fsm) t)) =
      .next (afterBus s n n (move s.fsm) (ackedFrames s.cfg bytes) okResponse) := by
  rw [sendCmds_begun_allAck bytes hn h]
  rfl

end

/-! ### POWERON (42_init_sequence.md R122) -/

theorem exec_poweron_eq (s : State) :
    exec .poweron s = finish (.done (if s.cfg.hasRst then resetPulse (setFsm .poweringOn (setSeq 0 s))
      else delay s.cfg.tPowerMs (setFsm .poweringOn (setSeq 0 s)))) := rfl

/-- The pulse shows its six events and leaves the line high. -/
theorem resetPulse_eq (s : State) :
    resetPulse s = { s with
      rstOut := some .high
      trace := s.trace ++ [.rstOut .high, .delay 10, .rstOut .low, .delay 1, .rstOut .high, .delay 10] } := by
  simp [resetPulse, driveRst, delay, emit, Config.tRstSettleMs, Config.tRstLowMs]

/-- Settles O37: the events of either course, and the response after them. -/
theorem poweronDelaysOrPulses : Obligations.PoweronDelaysOrPulses := by
  unfold Obligations.PoweronDelaysOrPulses
  intro s
  refine ⟨fun h => ?_, fun h => ?_⟩
  · rw [exec_poweron_eq, h, if_neg Bool.false_ne_true, finish_done]
    simp [respond, delay, emit, setFsm, setSeq, okResponse, Response.ok]
  · rw [exec_poweron_eq, h, if_pos rfl, resetPulse_eq, finish_done]
    simp [respond, emit, setFsm, setSeq, okResponse, Response.ok]

/-! ### INITDISP (42_init_sequence.md R127) -/

section
variable {s : State}

theorem exec_initdisp_eq (s : State) :
    exec .initdisp s = finish ((sendCmds (initConfig s.cfg.params) (setSeq 0 s)).andThen fun configured =>
      (sendCmd Cmd.displayOn (setFsm .initialized configured)).andThen fun shown => .done (setFsm .active shown)) := rfl

/-- The configuration ACKed, `fsm` is INITIALIZED and what is left is display-on. -/
theorem exec_initdisp_of_config_allAck (h : allAck s 23) :
    exec .initdisp s = finish ((sendFrame (controlFrame Cmd.displayOn) (sent (setFsm .initialized (setSeq 0 s)) 23 23
      (ackedFrames s.cfg (initConfig s.cfg.params)))).andThen fun shown => .done (setFsm .active shown)) := by
  rw [exec_initdisp_eq, sendCmds_begun_allAck _ rfl h]
  rfl

theorem exec_initdisp_allAck (h : allAck s 24) :
    exec .initdisp s = .next (afterBus s 24 24 .active
      (ackedFrames s.cfg (initConfig s.cfg.params ++ [Cmd.displayOn])) okResponse) := by
  have hon : answerAt (setFsm .initialized (setSeq 0 s)) 23 = .ack := h 23 (by decide)
  rw [exec_initdisp_of_config_allAck (allAck_mono h (by decide)), sendFrame_sent_ack hon]
  rfl

theorem exec_initdisp_failsAt_displayOn (h : failsAt s 23) :
    exec .initdisp s = .next (afterBus s 24 23 .initialized
      (failedFrames s.cfg (initConfig s.cfg.params ++ [Cmd.displayOn]) 23) (busError 23)) := by
  have hon : answerAt (setFsm .initialized (setSeq 0 s)) 23 = .fail := h.2
  rw [exec_initdisp_of_config_allAck h.1, sendFrame_sent_fail hon]
  rfl

/-- Frames after a failed one do not show. -/
theorem failedFrames_append_of_lt (c : Cfg) {xs : List Byte} {k : Nat} (hk : k < xs.length) (ys : List Byte) :
    failedFrames c (xs ++ ys) k = failedFrames c xs k := by
  have hone : 1 ≤ (xs.drop k).length := by rw [List.length_drop]; omega
  rw [failedFrames, List.take_append_of_le_length (Nat.le_of_lt hk), List.drop_append_of_le_length (Nat.le_of_lt hk),
    List.take_append_of_le_length hone, failedFrames]

theorem exec_initdisp_failsAt_config {k : Nat} (hk : k ≤ 22) (h : failsAt s k) :
    exec .initdisp s = .next (afterBus s (k + 1) k s.fsm
      (failedFrames s.cfg (initConfig s.cfg.params ++ [Cmd.displayOn]) k) (busError k)) := by
  have hlt : k < (initConfig s.cfg.params).length := Nat.lt_succ_of_le hk
  rw [exec_initdisp_eq, finish_sendCmds_andThen_failsAt _ hlt h, failedFrames_append_of_lt _ hlt]

end

/-- Settles O38: the rule's table is the configuration list and then display-on. -/
theorem initdispSendsList : Obligations.InitdispSendsList := by
  unfold Obligations.InitdispSendsList
  intro s p list
  have hlist : list = initConfig s.cfg.params ++ [Cmd.displayOn] := rfl
  rw [hlist]
  exact ⟨exec_initdisp_allAck, exec_initdisp_failsAt_displayOn, fun _ => exec_initdisp_failsAt_config⟩

/-! ### POWEROFF (42_init_sequence.md R130) -/

theorem exec_poweroff_eq (s : State) :
    exec .poweroff s =
      finish ((sendCmds [Cmd.displayOff] (setSeq 0 s)).andThen fun t => .done (setFsm .off t)) :=
  congrArg (fun r : Result => finish (r.andThen fun t => .done (setFsm .off t))) (sendCmd_eq_sendCmds _ _)

/-- Settles O39: POWEROFF is a list of one control frame, and then the move to OFF. -/
theorem poweroffSendsDisplayOff : Obligations.PoweroffSendsDisplayOff := by
  unfold Obligations.PoweroffSendsDisplayOff
  intro s
  rw [exec_poweroff_eq]
  exact ⟨fun h => finish_sendCmds_thenFsm_allAck _ rfl h fun _ => .off,
    fun h => finish_sendCmds_andThen_failsAt _ Nat.one_pos h _⟩

/-! ### CONTRAST (42_init_sequence.md R132) -/

theorem exec_contrast_eq (c : Byte) (s : State) :
    exec (.contrast c) s = finish (sendCmds [Cmd.setContrast, c] (setSeq 0 s)) := rfl

/-- Settles O40: CONTRAST is a list of two control frames. -/
theorem contrastSendsRegisterAndValue : Obligations.ContrastSendsRegisterAndValue := by
  unfold Obligations.ContrastSendsRegisterAndValue
  intro s c
  rw [exec_contrast_eq]
  exact ⟨finish_sendCmds_allAck _ rfl, finish_sendCmds_failsAt _ Nat.two_pos, finish_sendCmds_failsAt _ Nat.one_lt_two⟩

/-! ### INVERT (42_init_sequence.md R133) -/

/-- The byte that INVERT shows. -/
def polarityByte (flag : Bool) : Byte := if flag then Cmd.invertDisplay else Cmd.normalDisplay

theorem polarityByte_truth (c : Byte) : polarityByte (truth c) = if c ≠ 0 then 0xA7 else 0xA6 := by
  simp only [polarityByte, truth_eq, decide_eq_true_eq]
  rfl

theorem invertFsm_of_shown {f : Fsm} (h : f = .active ∨ f = .inverted) (flag : Bool) :
    invertFsm flag f = if flag then .inverted else .active := by
  rcases h with rfl | rfl <;> rfl

theorem invertFsm_of_not_shown {f : Fsm} (h : ¬ (f = .active ∨ f = .inverted)) (flag : Bool) :
    invertFsm flag f = f := by
  cases f with
  | off | poweringOn | initialized => rfl
  | active => exact absurd (.inl rfl) h
  | inverted => exact absurd (.inr rfl) h

theorem invertFsm_truth (c : Byte) (f : Fsm) :
    invertFsm (truth c) f =
      if f = .active ∨ f = .inverted then (if c ≠ 0 then .inverted else .active) else f := by
  split
  · next h => simp only [invertFsm_of_shown h, truth_eq, decide_eq_true_eq]
  · next h => exact invertFsm_of_not_shown h _

theorem exec_invert_eq (c : Byte) (s : State) :
    exec (.invert c) s = finish ((sendCmds [polarityByte (truth c)] (setSeq 0 s)).andThen fun t =>
      .done (setFsm (invertFsm (truth c) t.fsm) t)) :=
  congrArg (fun r : Result => finish (r.andThen fun t => .done (setFsm (invertFsm (truth c) t.fsm) t)))
    (sendCmd_eq_sendCmds _ _)

/-- Settles O41: INVERT is a list of one control frame, and then its move of `fsm`. -/
theorem invertSelectsPolarity : Obligations.InvertSelectsPolarity := by
  unfold Obligations.InvertSelectsPolarity
  intro s c byte moved
  have hbyte : byte = polarityByte (truth c) := (polarityByte_truth c).symm
  have hmoved : moved = invertFsm (truth c) s.fsm := (invertFsm_truth c s.fsm).symm
  rw [hbyte, hmoved, exec_invert_eq]
  exact ⟨fun h => finish_sendCmds_thenFsm_allAck _ rfl h _, fun h => finish_sendCmds_andThen_failsAt _ Nat.one_pos h _⟩

/-! ### The transition table of `fsm` (42_init_sequence.md R121) -/

/-- An operation outside the table's rows for POWERON, INITDISP, POWEROFF and INVERT leaves `fsm`. -/
theorem exec_fsm_of_not_movesFsm {i : Instr} (hi : ¬ movesFsm i) (s : State) :
    ∃ t, exec i s = .next t ∧ t.fsm = s.fsm := by
  cases hbuffer : isBufferOp i with
  | true =>
    obtain ⟨t, r, hexec, ht, -⟩ := bufferOperationsTouchOnlyBuffer i s hbuffer
    exact ⟨t, hexec, by rw [ht, answered_fsm]⟩
  | false =>
    obtain ⟨r, hexec, course⟩ := sender_stopsAtFailure hbuffer s
    obtain ⟨a, hcomplete⟩ := finish_eq_next (r := r) rfl
    refine ⟨_, hexec, ?_⟩
    rw [hcomplete, respond_fsm]
    exact course.keeps.2 hi

/-- An operation has one outcome, and its `fsm` is the one that outcome states. -/
theorem fsm_of_exec_afterBus {i : Instr} {s t : State} {n q : Nat} {f : Fsm} {events : List Event} {a : Response}
    (ht : exec i s = .next t) (hexec : exec i s = .next (afterBus s n q f events a)) : t.fsm = f := by
  cases ht.symm.trans hexec
  rfl

theorem exec_poweron_fsm (s : State) : ∃ t, exec .poweron s = .next t ∧ t.fsm = .poweringOn := by
  obtain ⟨hdelay, hpulse⟩ := poweronDelaysOrPulses s
  cases hrst : s.cfg.hasRst with
  | false => exact ⟨_, hdelay hrst, rfl⟩
  | true => exact ⟨_, hpulse hrst, rfl⟩

section
variable {s t : State} {c : Byte}

theorem exec_invert_fsm_allAck (ht : exec (.invert c) s = .next t) (h : allAck s 1) :
    t.fsm = invertFsm (truth c) s.fsm :=
  (fsm_of_exec_afterBus ht ((invertSelectsPolarity s c).1 h)).trans (invertFsm_truth c s.fsm).symm

theorem exec_invert_fsm_failsAt (ht : exec (.invert c) s = .next t) (h : failsAt s 0) : t.fsm = s.fsm :=
  fsm_of_exec_afterBus ht ((invertSelectsPolarity s c).2 h)

/-- From a state the display does not show in, INVERT leaves `fsm` whatever the platform answers. -/
theorem exec_invert_fsm_of_not_shown (ht : exec (.invert c) s = .next t)
    (hshown : ¬ (s.fsm = .active ∨ s.fsm = .inverted)) : t.fsm = s.fsm := by
  rcases allAck_or_failsAt s 1 with hack | ⟨k, hk, hfail⟩
  · rw [exec_invert_fsm_allAck ht hack, invertFsm_of_not_shown hshown]
  · obtain rfl : k = 0 := Nat.lt_one_iff.1 hk
    exact exec_invert_fsm_failsAt ht hfail

end

/-- Settles O35: the four operations that move `fsm` by what each does, the other nine as they leave it. -/
theorem fsmFollowsTransitionTable : Obligations.FsmFollowsTransitionTable := by
  unfold Obligations.FsmFollowsTransitionTable
  refine ⟨fun c => rfl, fun op s => ⟨_, illegalRequest_eq op s, rfl⟩, fun i s => ?_⟩
  obtain ⟨t, -, -, hexec, -⟩ := exec_responds i s
  cases i with
  | poweron => exact exec_poweron_fsm s
  | initdisp =>
    obtain ⟨hall, hlast, hearlier⟩ := initdispSendsList s
    exact ⟨t, hexec, fun h => fsm_of_exec_afterBus hexec (hall h), fun h => fsm_of_exec_afterBus hexec (hlast h),
      fun k hk h => fsm_of_exec_afterBus hexec (hearlier k hk h)⟩
  | poweroff =>
    obtain ⟨hack, hfail⟩ := poweroffSendsDisplayOff s
    exact ⟨t, hexec, fun h => fsm_of_exec_afterBus hexec (hack h), fun h => fsm_of_exec_afterBus hexec (hfail h)⟩
  | invert c =>
    refine ⟨t, hexec, fun hshown hack => ?_, fun _ => exec_invert_fsm_failsAt hexec, fun hother => ?_⟩
    · rw [exec_invert_fsm_allAck hexec hack, invertFsm_truth, if_pos hshown]
    · refine exec_invert_fsm_of_not_shown hexec ?_
      rcases hother with h | h | h <;> simp [h]
  | wrcmd | display | contrast | setcols | setpages | clear | setpix | pixel | wrbyte =>
    exact exec_fsm_of_not_movesFsm (by simp [movesFsm]) s

end Sys2Proof.Proofs

/-! ## The addressing-window setters (43_window.md): the window check, and then a list of three control frames -/

namespace Sys2Proof.Proofs

open Sys2Proof.Machine Sys2Proof.Safety Sys2Proof.Laws

/-! ### The body the two setters share (43_window.md R140 to R142) -/

section
variable {s : State} {axis : Axis} {command : Byte} {start stop bound : Int}

/-- A window that the check refuses is answered with the check's error, and nothing is sent. -/
theorem finish_sendWindow_refused {e : Err} (h : checkWindow axis start stop bound = some e) :
    finish (sendWindow axis command start stop bound s) = .next (answered { s with seq := 0 } e.response) := by
  rw [sendWindow, h]
  rfl

theorem finish_sendWindow_badStart (h : ¬ (0 ≤ start ∧ start ≤ bound)) :
    finish (sendWindow axis command start stop bound s) =
      .next (answered { s with seq := 0 } (Err.window axis .start start 0 bound).response) :=
  finish_sendWindow_refused (if_pos h)

/-- The start passed its test, so the end's test decides. -/
theorem finish_sendWindow_badStop (hstart : 0 ≤ start ∧ start ≤ bound) (h : ¬ (start ≤ stop ∧ stop ≤ bound)) :
    finish (sendWindow axis command start stop bound s) =
      .next (answered { s with seq := 0 } (Err.window axis .stop stop start bound).response) :=
  finish_sendWindow_refused ((if_neg (not_not_intro hstart)).trans (if_pos h))

theorem finish_sendWindow_allAck (hstart : 0 ≤ start ∧ start ≤ bound) (hstop : start ≤ stop ∧ stop ≤ bound)
    (h : allAck s 3) :
    finish (sendWindow axis command start stop bound s) =
      .next (afterBus s 3 3 s.fsm (ackedFrames s.cfg [command, boundByte start, boundByte stop]) okResponse) := by
  rw [sendWindow_inside ⟨hstart.1, hstop⟩]
  exact finish_sendCmds_allAck _ rfl h

theorem finish_sendWindow_failsAt (hstart : 0 ≤ start ∧ start ≤ bound) (hstop : start ≤ stop ∧ stop ≤ bound)
    (k : Nat) (hk : k < 3) (h : failsAt s k) :
    finish (sendWindow axis command start stop bound s) =
      .next (afterBus s (k + 1) k s.fsm (failedFrames s.cfg [command, boundByte start, boundByte stop] k)
        (busError k)) := by
  rw [sendWindow_inside ⟨hstart.1, hstop⟩]
  exact finish_sendCmds_failsAt _ hk h

end

/-! ### SETCOLS (43_window.md R140) and SETPAGES (43_window.md R142) -/

theorem exec_setcols_eq (start stop : Int) (c : Byte) (s : State) :
    exec (.setcols start stop c) s =
      finish (sendWindow .col 0x21 start (if c.getLsbD 0 then 127 else stop) 127 s) := rfl

theorem exec_setpages_eq (start stop : Int) (c : Byte) (s : State) :
    exec (.setpages start stop c) s =
      finish (sendWindow .page 0x22 start (if c.getLsbD 0 then (s.cfg.height.rows : Int) / 8 - 1 else stop)
        ((s.cfg.height.rows : Int) / 8 - 1) s) := rfl

/-- Settles O42: the shared body, with the last column as its bound. -/
theorem setcolsSendsWindow : Obligations.SetcolsSendsWindow := by
  unfold Obligations.SetcolsSendsWindow
  intro s start stop c last bytes
  rw [exec_setcols_eq]
  exact ⟨finish_sendWindow_badStart, finish_sendWindow_badStop, finish_sendWindow_allAck, finish_sendWindow_failsAt⟩

/-- Settles O43: the shared body, with the last page of the configuration as its bound. -/
theorem setpagesSendsWindow : Obligations.SetpagesSendsWindow := by
  unfold Obligations.SetpagesSendsWindow
  intro s start stop c bound last bytes
  rw [exec_setpages_eq]
  exact ⟨finish_sendWindow_badStart, finish_sendWindow_badStop, finish_sendWindow_allAck, finish_sendWindow_failsAt⟩

end Sys2Proof.Proofs

/-! ## The font blitter (48_clients.md R180 to R186): what a character writes, and where the cursor goes -/

namespace Sys2Proof.Proofs

open Sys2Proof.Machine Sys2Proof.Machine.Clients Sys2Proof.Safety Sys2Proof.Laws

/-! ### Requests of a client -/

/-- A request that the block answers, in terms of the answer. -/
theorem issue_of_answered {i : Instr} {s t : State} {r : Response}
    (h : exec i (startOperation s) = .next (answered t r)) :
    issue i s = (answered t r, if r.status = 0 then none else some (.block r)) :=
  issue_eq h (by simp)

/-- The block answers every request. -/
theorem issue_answers (i : Instr) (s : State) :
    ∃ t r, exec i (startOperation s) = .next t ∧ issue i s = (t, if r.status = 0 then none else some (.block r)) := by
  obtain ⟨t, r, hexec, -⟩ := exec_ends i (startOperation s)
  exact ⟨_, r, hexec, issue_of_answered hexec⟩

theorem issue_cfg (i : Instr) (s : State) : (issue i s).1.cfg = s.cfg := by
  obtain ⟨t, r, hexec, hissue⟩ := issue_answers i s
  rw [hissue]
  exact (exec_cfg hexec).trans (startOperation_cfg s)

theorem issueAll_cfg (requests : List Instr) (s : State) : (issueAll requests s).1.cfg = s.cfg :=
  loop_keeps (P := (·.cfg = s.cfg)) requests (fun i t ht => (issue_cfg i t).trans ht) rfl

theorem issue_wrbyte {s : State} {i : Nat} (hlow : 1 ≤ i) (hhigh : i < s.cfg.fbLen) (v : Byte) :
    issue (.wrbyte i v) s = (answered (memWrite i v (startOperation s)) okResponse, none) := by
  have hexec := exec_wrbyte_inside (s := startOperation s) (i := i) (by simp; omega) v
  exact issue_of_answered hexec

/-! ### Bytes written one after another (48_clients.md R182) -/

/-- From `s` to `t` the bytes have been written at `start` and the indices after it, and nothing else of the buffer. -/
structure BytesWritten (start : Nat) (bytes : List Byte) (s t : State) : Prop where
  cfg       : t.cfg = s.cfg
  canonical : t.fb.wf = true
  read      : ∀ a, t.fb.read a =
    if start ≤ a ∧ a < start + bytes.length then (bytes[a - start]?).getD 0 else s.fb.read a

section

variable {start : Nat} {v : Byte} {bytes : List Byte} {s t : State}

/-- The first byte, and then the others after it. -/
theorem BytesWritten.cons (hwf : s.fb.wf = true)
    (h : BytesWritten (start + 1) bytes (answered (memWrite start v (startOperation s)) okResponse) t) :
    BytesWritten start (v :: bytes) s t where
  cfg := h.cfg
  canonical := h.canonical
  read a := by
    rw [h.read a, answered_fb, memWrite_fb, startOperation_fb, read_write hwf, List.length_cons]
    by_cases hfirst : a = start
    · subst hfirst
      rw [if_neg (by omega), if_pos rfl, if_pos (by omega), Nat.sub_self]
      rfl
    · by_cases hrest : start + 1 ≤ a ∧ a < start + 1 + bytes.length
      · rw [if_pos hrest, if_pos (by omega), show a - start = a - (start + 1) + 1 by omega]
        rfl
      · rw [if_neg hrest, if_neg hfirst, if_neg (by omega)]

theorem BytesWritten.read_inside (h : BytesWritten start bytes s t) {j : Nat} (hj : j < bytes.length) :
    t.fb.read (start + j) = (bytes[j]?).getD 0 := by
  rw [h.read, if_pos (by omega), Nat.add_sub_cancel_left]

theorem BytesWritten.read_outside (h : BytesWritten start bytes s t) {a : Nat}
    (ha : a < start ∨ start + bytes.length ≤ a) : t.fb.read a = s.fb.read a := by
  rw [h.read, if_neg (by omega)]

/-- WRBYTE requests whose indices are all of the pixel area complete. -/
theorem issueAll_byteRequests (bytes : List Byte) {start : Nat} {s : State} (hwf : s.fb.wf = true) (hlow : 1 ≤ start)
    (hhigh : start + bytes.length ≤ s.cfg.fbLen) :
    ∃ t, issueAll (byteRequests start bytes) s = (t, none) ∧ BytesWritten start bytes s t := by
  induction bytes generalizing start s with
  | nil => exact ⟨s, rfl, rfl, hwf, fun a => (if_neg (by simp)).symm⟩
  | cons v rest ih =>
    rw [List.length_cons] at hhigh
    have hfirst := issue_wrbyte hlow (show start < s.cfg.fbLen by omega) v
    obtain ⟨t, hissue, written⟩ :=
      ih (start := start + 1) (s := answered (memWrite start v (startOperation s)) okResponse)
        (write_wf hwf start v) (by omega) (show start + 1 + rest.length ≤ s.cfg.fbLen by omega)
    refine ⟨t, ?_, written.cons hwf⟩
    rw [issueAll, byteRequests, loop_cons, hfirst]
    exact hissue

end

/-! ### One character (48_clients.md R181, R182, R186) -/

/-- A glyph has five bytes (48_clients.md R181). -/
theorem glyph_length {font : List Byte} {ch : Nat} {g : List Byte} (h : glyph font ch = some g) : g.length = 5 := by
  unfold glyph at h
  split at h
  · cases h
  · cases h
    rw [List.length_take, List.length_drop]
    omega

theorem pChar_of_no_glyph {font : List Byte} {ch : Nat} (h : glyph font ch = none) (u : Session) :
    pChar font ch u = (u, some .glyph) := by
  simp [pChar, h]

theorem cellIndex_eq (cur : Cursor) : cellIndex cur = 128 * cur.row + 6 * cur.col + 1 := rfl

/-- The six bytes of a cell of the panel are indices of the pixel area (48_clients.md R186). -/
theorem cell_inside {c : Cfg} {cur : Cursor} (h : cursorOnPanel c cur) : cellIndex cur + 6 ≤ c.fbLen := by
  obtain ⟨hcol, hrow⟩ := h
  rw [cellIndex_eq, fbLen_eq]
  omega

/-- A character with a glyph, at a cell of the panel, is written there, and the cursor advances. -/
theorem pChar_of_glyph {font : List Byte} {ch : Nat} {g : List Byte} {u : Session} (hg : glyph font ch = some g)
    (hcur : cursorOnPanel u.block.cfg u.cursor) (hwf : u.block.fb.wf = true) :
    ∃ t, pChar font ch u = ({ block := t, cursor := advance u.block.cfg u.cursor }, none) ∧
      BytesWritten (cellIndex u.cursor) (g ++ [0x00]) u.block t := by
  have hlength : (g ++ [(0x00 : Byte)]).length = 6 := by simp [glyph_length hg]
  obtain ⟨t, hissue, written⟩ := issueAll_byteRequests (g ++ [0x00]) hwf
    (show 1 ≤ cellIndex u.cursor by simp [cellIndex_eq]) (hlength ▸ cell_inside hcur)
  refine ⟨t, ?_, written⟩
  simp only [pChar, hg, hissue, written.cfg]

/-- Settles O55: the cell's index is the statement's, and a glyph with the zero byte is six bytes. -/
theorem characterCellWritten : Obligations.CharacterCellWritten := by
  unfold Obligations.CharacterCellWritten
  intro font ch u
  refine ⟨fun hnone => pChar_of_no_glyph hnone u, fun g hg hcur hwf => ⟨glyph_length hg, ?_⟩⟩
  obtain ⟨t, hchar, written⟩ := pChar_of_glyph hg hcur hwf
  refine ⟨_, hchar, written.cfg, rfl, fun a => ?_⟩
  simpa [cellIndex_eq, glyph_length hg, Nat.add_assoc] using written.read a

/-! ### The cursor (48_clients.md R180, R184) -/

/-- The character row that text goes on in after `row`: the next one, or row 0 after the last of the panel. -/
def nextRow (c : Cfg) (row : Nat) : Nat := if row + 1 < c.pages then row + 1 else 0

theorem nextRow_lt (c : Cfg) (row : Nat) : nextRow c row < c.pages := by
  have hpages := pages_cases c
  unfold nextRow
  split <;> omega

/-- The cursor after `k` characters of a row, 21 being all of them. -/
def cursorAt (c : Cfg) (row k : Nat) : Cursor :=
  if k ≤ 20 then { row := row, col := k } else { row := nextRow c row, col := 0 }

theorem cursorAt_of_le {k : Nat} (hk : k ≤ 20) (c : Cfg) (row : Nat) : cursorAt c row k = { row := row, col := k } :=
  if_pos hk

theorem cursorAt_onPanel {c : Cfg} {row : Nat} (hrow : row < c.pages) (k : Nat) :
    cursorOnPanel c (cursorAt c row k) := by
  unfold cursorAt
  split
  · next hk => exact ⟨hk, hrow⟩
  · exact ⟨Nat.zero_le _, nextRow_lt c row⟩

/-- The advance in terms of the panel's cells: the two comparisons of the rule are with 20 and with the last row. -/
theorem advance_eq_cursorAt (c : Cfg) (cur : Cursor) : advance c cur = cursorAt c cur.row (cur.col + 1) := by
  have hpages := pages_cases c
  have hcol : Config.columns / 6 - 1 = 20 := rfl
  have hrow : c.height.rows / 8 = c.pages := rfl
  unfold advance cursorAt nextRow
  rw [hcol, hrow]
  by_cases hlast : cur.col + 1 ≤ 20
  · rw [if_neg (by omega), if_pos hlast]
  · rw [if_pos (by omega), if_neg hlast]
    by_cases hdown : cur.row + 1 < c.pages
    · rw [if_neg (by omega), if_pos hdown]
    · rw [if_pos (by omega), if_neg hdown]

theorem advance_onPanel {c : Cfg} {cur : Cursor} (h : cursorOnPanel c cur) : cursorOnPanel c (advance c cur) := by
  rw [advance_eq_cursorAt]
  exact cursorAt_onPanel h.2 _

/-- A character leaves the cursor on the panel: it advances, or stays where it was when the character is refused. -/
theorem pChar_onPanel (font : List Byte) (ch : Nat) {u : Session} (h : cursorOnPanel u.block.cfg u.cursor) :
    cursorOnPanel (pChar font ch u).1.block.cfg (pChar font ch u).1.cursor := by
  unfold pChar
  split
  · exact h
  · next g hg =>
    have hcfg := issueAll_cfg (byteRequests (cellIndex u.cursor) (g ++ [0x00])) u.block
    split
    · next t hissue =>
      rw [hissue] at hcfg
      exact advance_onPanel (hcfg ▸ h)
    · next t e hissue =>
      rw [hissue] at hcfg
      exact hcfg ▸ h

/-- Settles O56: every character of the text keeps the cursor on the panel. -/
theorem cursorStaysOnPanel : Obligations.CursorStaysOnPanel := by
  unfold Obligations.CursorStaysOnPanel
  intro font text u h
  exact loop_keeps (P := fun u : Session => cursorOnPanel u.block.cfg u.cursor) text
    (fun ch _ hu => pChar_onPanel font ch hu) h

/-! ### A character row (48_clients.md R185) -/

/-- From `u` to `t` the characters of `text` have been written in the cells of `row` from cell `k` on, and nothing else
of the buffer. -/
structure CellsWritten (font : List Byte) (row k : Nat) (text : List Nat) (u t : Session) : Prop where
  cursor : t.cursor = cursorAt u.block.cfg row (k + text.length)
  cells  : ∀ c ch g, text[c]? = some ch → glyph font ch = some g → ∀ j, j < 6 →
    t.block.fb.read (128 * row + 6 * (k + c) + 1 + j) = ((g ++ [0x00])[j]?).getD 0
  others : ∀ a, a < 128 * row + 6 * k + 1 ∨ 128 * row + 6 * (k + text.length) + 1 ≤ a →
    t.block.fb.read a = u.block.fb.read a

/-- The character of cell `k`, and then the others after it. -/
theorem CellsWritten.cons {font : List Byte} {row k ch : Nat} {g : List Byte} {rest : List Nat} {u v t : Session}
    (hg : glyph font ch = some g) (hwritten : BytesWritten (128 * row + 6 * k + 1) (g ++ [0x00]) u.block v.block)
    (h : CellsWritten font row (k + 1) rest v t) : CellsWritten font row k (ch :: rest) u t where
  cursor := by
    rw [h.cursor, hwritten.cfg, List.length_cons, show k + 1 + rest.length = k + (rest.length + 1) by omega]
  cells := by
    have hlength : (g ++ [(0x00 : Byte)]).length = 6 := by simp [glyph_length hg]
    intro c ch' g' hch hg' j hj
    cases c with
    | zero =>
      cases hch
      cases hg.symm.trans hg'
      rw [h.others _ (by omega), Nat.add_zero]
      exact hwritten.read_inside (by omega)
    | succ c =>
      rw [show k + (c + 1) = k + 1 + c by omega]
      exact h.cells c ch' g' hch hg' j hj
  others a ha := by
    have hlength : (g ++ [(0x00 : Byte)]).length = 6 := by simp [glyph_length hg]
    rw [List.length_cons] at ha
    rw [h.others a (by omega), hwritten.read_outside (by omega)]

/-- Characters with glyphs, no more than the row has cells left, are written one after another. -/
theorem pString_writes_cells {font : List Byte} {row : Nat} (text : List Nat) {k : Nat} {u : Session}
    (hwf : u.block.fb.wf = true) (hglyphs : ∀ ch ∈ text, glyph font ch ≠ none) (hfits : k + text.length ≤ 21)
    (hrow : row < u.block.cfg.pages) (hcur : u.cursor = cursorAt u.block.cfg row k) :
    ∃ t, pString font text u = (t, none) ∧ CellsWritten font row k text u t := by
  induction text generalizing k u with
  | nil => exact ⟨u, rfl, hcur, fun c ch g hch => (by simp at hch), fun _ _ => rfl⟩
  | cons ch rest ih =>
    obtain ⟨hch, hrest⟩ := List.forall_mem_cons.1 hglyphs
    obtain ⟨g, hg⟩ := Option.ne_none_iff_exists'.1 hch
    rw [List.length_cons] at hfits
    have hcell : u.cursor = { row := row, col := k } := hcur.trans (cursorAt_of_le (by omega) _ _)
    obtain ⟨s, hchar, written⟩ := pChar_of_glyph hg (hcur ▸ cursorAt_onPanel hrow k) hwf
    rw [advance_eq_cursorAt, hcell] at hchar
    rw [cellIndex_eq, hcell] at written
    obtain ⟨t, hstring, cells⟩ :=
      ih (k := k + 1) (u := { block := s, cursor := cursorAt u.block.cfg row (k + 1) }) written.canonical hrest
        (by omega) (written.cfg ▸ hrow) (written.cfg ▸ rfl)
    refine ⟨t, ?_, cells.cons hg written⟩
    rw [pString, loop_cons, hchar]
    exact hstring

/-- Settles O57: the 21 characters are written from cell 0 on, and after cell 20 the cursor is in the next row. -/
theorem characterRowFills : Obligations.CharacterRowFills := by
  unfold Obligations.CharacterRowFills
  intro font text u hwf hglyphs hlength hcol hrow
  have hcur : u.cursor = cursorAt u.block.cfg u.cursor.row 0 := by
    rw [cursorAt_of_le (by omega), ← hcol]
  obtain ⟨t, hstring, written⟩ := pString_writes_cells text hwf hglyphs (by omega) hrow hcur
  refine ⟨t, hstring, ?_, fun c ch g hch hg j hj => ?_, fun a ha => written.others a (by omega)⟩
  · rw [written.cursor, hlength]
    rfl
  · rw [← written.cells c ch g hch hg j hj, Nat.zero_add]

end Sys2Proof.Proofs

/-! ## The bitmap decoder (48_clients.md R187 to R193): what it keeps, how it uses its resources, what it paints -/

namespace Sys2Proof.Proofs

open Sys2Proof.Machine Sys2Proof.Machine.Clients Sys2Proof.Safety Sys2Proof.Laws

/-! ### PIXEL requests (48_clients.md R191) -/

/-- No request ends a client with CERR_IO: its error is a response of the block. -/
theorem issue_ne_io (i : Instr) (s : State) : (issue i s).2 ≠ some .io := by
  obtain ⟨t, r, -, hissue⟩ := issue_answers i s
  rw [hissue]
  dsimp only
  split <;> simp

theorem request_ne_io (i : Instr) (u : DecodeSession) : (request i u).2 ≠ some .io := by
  unfold request
  split
  · exact issue_ne_io i u.block
  · simp

/-- A request that ends without error was performed, and touched the block only. -/
theorem request_eq_none {i : Instr} {u t : DecodeSession} (h : request i u = (t, none)) :
    issue i u.block = (t.block, none) ∧ t.file = u.file := by
  unfold request at h
  split at h
  · obtain ⟨rfl, hanswer⟩ := Prod.mk.inj h
    exact ⟨Prod.ext rfl hanswer, rfl⟩
  · cases h

section

variable {s t : State} {x y : Int}

theorem issue_pixel_onPanel (hwf : s.fb.wf = true) (hin : onPanel s.cfg x y) (c : Byte) :
    ∃ t, issue (.pixel x y c) s = (t, none) ∧ PixelWritten true x y (startOperation s) t := by
  obtain ⟨t, hexec, written⟩ := pixel_written (s := startOperation s) hwf hin c
  exact ⟨t, issue_eq (r := okResponse) hexec (by rw [written.frame]; simp), written⟩

theorem issue_pixel_offPanel (hout : ¬ onPanel s.cfg x y) (c : Byte) :
    issue (.pixel x y c) s =
      (answered (startOperation s) (pixelError x y), some (.block (pixelError x y))) :=
  issue_of_answered (exec_setpix_offPanel (s := startOperation s) hout 1)

/-- A PIXEL request that ends without error was in range. -/
theorem pixelWritten_of_issue_eq_none (hwf : s.fb.wf = true) {c : Byte} (h : issue (.pixel x y c) s = (t, none)) :
    onPanel s.cfg x y ∧ PixelWritten true x y (startOperation s) t := by
  by_cases hin : onPanel s.cfg x y
  · obtain ⟨t', hissue, written⟩ := issue_pixel_onPanel hwf hin c
    obtain ⟨rfl, -⟩ := Prod.mk.inj (hissue.symm.trans h)
    exact ⟨hin, written⟩
  · rw [issue_pixel_offPanel hin] at h
    cases h

/-- PIXEL sets its own pixel and leaves every other as it was. -/
theorem PixelWritten.pixelOn_iff (h : PixelWritten true x y s t) (hin : onPanel s.cfg x y) {x' y' : Int}
    (hin' : onPanel s.cfg x' y') : pixelOn t x' y' = true ↔ pixelOn s x' y' = true ∨ (x' = x ∧ y' = y) := by
  unfold pixelOn
  by_cases hbyte : (pixMap x' y').1 = (pixMap x y).1
  · rw [hbyte, h.bit]
    by_cases hbit : (y' % 8).toNat = (y % 8).toNat
    · have hpixel := pixMap_inj hin' hin (Prod.ext hbyte (by simp [pixMap_eq, hbit]))
      simp [hpixel]
    · have hother : y' ≠ y := fun hy => hbit (hy ▸ rfl)
      simp [hbit, hother]
  · have hother : ¬ (x' = x ∧ y' = y) := by
      rintro ⟨rfl, rfl⟩
      exact hbyte rfl
    rw [h.others _ hbyte, or_iff_left hother]

end

/-! ### The reads of a decode -/

/-- Reads leave the file and the block, however they end. -/
theorem loop_readAt_keeps {os : List Nat} {u t : DecodeSession} {e : Option ClientError}
    (h : loop readAt os u = (t, e)) : t.file = u.file ∧ t.block = u.block := by
  have hkeeps : (loop readAt os u).1.file = u.file ∧ (loop readAt os u).1.block = u.block :=
    loop_keeps (P := fun v : DecodeSession => v.file = u.file ∧ v.block = u.block) os
      (fun o v hv => by simpa using hv) ⟨rfl, rfl⟩
  rwa [h] at hkeeps

/-- A read that is done is of a byte that the file has. -/
theorem readAt_eq_none {o : Nat} {u t : DecodeSession} (h : readAt o u = (t, none)) :
    o < u.file.length ∧ t.file = u.file ∧ t.block = u.block := by
  obtain ⟨-, -, hlt, -⟩ | ⟨-, hio⟩ := readAt_cases o u
  · obtain rfl : (readAt o u).1 = t := congrArg Prod.fst h
    exact ⟨hlt, readAt_file o u, readAt_block o u⟩
  · rw [h] at hio
    cases hio

theorem lt_length_of_loop_readAt {os : List Nat} {u t : DecodeSession} (h : loop readAt os u = (t, none)) :
    ∀ o ∈ os, o < u.file.length := by
  induction os generalizing u with
  | nil => simp
  | cons o rest ih =>
    obtain ⟨v, hfirst, hrest⟩ := proceed_eq_none h
    obtain ⟨hlt, hfile, -⟩ := readAt_eq_none hfirst
    exact List.forall_mem_cons.2 ⟨hlt, hfile ▸ ih hrest⟩

/-! ### The header's bytes (48_clients.md R188) -/

/-- A field has a value when its first byte is in the file and the rest of it has one. -/
theorem leField_succ_isSome (file : List Byte) (o n : Nat) :
    (leField file o (n + 1)).isSome = true ↔ o < file.length ∧ (leField file (o + 1) n).isSome = true := by
  rw [leField]
  by_cases h : o < file.length
  · cases leField file (o + 1) n <;> simp [h]
  · simp [h]

/-- A field of at least one byte has a value when its last byte is in the file. -/
theorem leField_isSome_iff (file : List Byte) (o n : Nat) :
    (leField file o (n + 1)).isSome = true ↔ o + n < file.length := by
  induction n generalizing o with
  | zero => rw [leField_succ_isSome, leField, Option.isSome_some, eq_self, and_true, Nat.add_zero]
  | succ n ih =>
    rw [leField_succ_isSome, ih]
    omega

/-- The header can be read exactly from a file that has the last of its bytes. -/
theorem readHeader_isSome_iff (file : List Byte) : (readHeader file).isSome = true ↔ 37 < file.length := by
  have hfield := leField_isSome_iff file
  constructor
  · intro h
    obtain ⟨hd, hheader⟩ := Option.isSome_iff_exists.1 h
    simp only [readHeader, Option.bind_eq_bind, Option.bind_eq_some_iff] at hheader
    obtain ⟨-, -, -, -, -, -, -, -, -, -, -, -, -, -, size, hsize, -⟩ := hheader
    exact (hfield 34 3).1 (by rw [hsize]; rfl)
  · intro h
    have hsome : ∀ o n, o + n < file.length → ∃ v, leField file o (n + 1) = some v :=
      fun o n hlt => Option.isSome_iff_exists.1 ((hfield o n).2 hlt)
    obtain ⟨_, h2⟩ := hsome 2 3 (by omega)
    obtain ⟨_, h10⟩ := hsome 10 3 (by omega)
    obtain ⟨_, h18⟩ := hsome 18 3 (by omega)
    obtain ⟨_, h22⟩ := hsome 22 3 (by omega)
    obtain ⟨_, h26⟩ := hsome 26 1 (by omega)
    obtain ⟨_, h28⟩ := hsome 28 1 (by omega)
    obtain ⟨_, h30⟩ := hsome 30 3 (by omega)
    obtain ⟨_, h34⟩ := hsome 34 3 (by omega)
    simp [readHeader, *]

/-! ### What holds of every part of a decode, however it ends -/

/-- A relation between the session before a part of a decode and what the part gives: it holds of an end that is no read
failure, of one read and of one PIXEL request, and of two parts one after the other. -/
structure HoldsOfParts (R : DecodeSession → DecodeSession × Option ClientError → Prop) : Prop where
  ends     : ∀ u e, e ≠ some .io → R u (u, e)
  reads    : ∀ o u, R u (readAt o u)
  requests : ∀ x y u, R u (request (.pixel x y 1) u)
  proceeds : ∀ u r rest, R u r → (∀ t, r = (t, none) → R t (rest t)) → R u (proceed r rest)

section

variable {R : DecodeSession → DecodeSession × Option ClientError → Prop}

theorem HoldsOfParts.loop {α : Type} {body : α → DecodeSession → DecodeSession × Option ClientError}
    (h : HoldsOfParts R) (hbody : ∀ x u, R u (body x u)) (xs : List α) (u : DecodeSession) : R u (loop body xs u) := by
  induction xs generalizing u with
  | nil => exact h.ends u none (by simp)
  | cons x xs ih => exact h.proceeds _ _ _ (hbody x u) fun t _ => ih t

theorem HoldsOfParts.paintPixel (h : HoldsOfParts R) (hd : BmpHeader) (r x : Nat) (u : DecodeSession) :
    R u (paintPixel hd r x u) := by
  refine h.proceeds _ _ _ (h.reads _ u) fun t _ => ?_
  unfold paintByte
  split
  · exact h.ends t none (by simp)
  · exact h.requests _ _ t

theorem HoldsOfParts.paintRows (h : HoldsOfParts R) (hd : BmpHeader) (u : DecodeSession) : R u (paintRows hd u) :=
  h.loop (fun r => h.loop (h.paintPixel hd r) _) _ u

theorem HoldsOfParts.checkSignature (h : HoldsOfParts R) (magic : Byte × Byte) (u : DecodeSession) :
    R u (checkSignature magic u) := by
  refine h.proceeds _ _ _ (h.loop h.reads _ u) fun t _ => h.ends t _ ?_
  split <;> simp

/-- The header that was read is there: no decode ends with CERR_IO on a file whose header bytes could all be read. -/
theorem HoldsOfParts.decodePicture (h : HoldsOfParts R) (u : DecodeSession) : R u (decodePicture u) := by
  refine h.proceeds _ _ _ (h.loop h.reads _ u) fun t hread => ?_
  have hlast : 37 < t.file.length := (loop_readAt_keeps hread).1 ▸ lt_length_of_loop_readAt hread 37 (by decide)
  obtain ⟨hd, hheader⟩ := Option.isSome_iff_exists.1 ((readHeader_isSome_iff t.file).2 hlast)
  simp only [hheader]
  split
  · exact h.paintRows hd t
  · exact h.ends t _ (by simp)

/-- A decode between the opening of its resources and their release. -/
def decodeOpened (magic : Byte × Byte) (u : DecodeSession) : DecodeSession × Option ClientError :=
  proceed (checkSignature magic (acquire u)) decodePicture

theorem decodeBitmap_eq_release (magic : Byte × Byte) (u : DecodeSession) :
    decodeBitmap magic u = (release (decodeOpened magic u).1, (decodeOpened magic u).2) := rfl

/-- What holds of the parts holds of the decode between the opening of its resources and their release. -/
theorem HoldsOfParts.decodeOpened (h : HoldsOfParts R) (magic : Byte × Byte) (u : DecodeSession) :
    R (acquire u) (decodeOpened magic u) :=
  h.proceeds _ _ _ (h.checkSignature magic _) fun t _ => h.decodePicture t

end

/-! ### No pixel is cleared (48_clients.md R191) -/

/-- A canonical buffer stays canonical, and a bit set in it stays set. -/
def OnlySets (s t : State) : Prop :=
  s.fb.wf = true → t.fb.wf = true ∧ ∀ a n, (s.fb.read a).getLsbD n = true → (t.fb.read a).getLsbD n = true

theorem OnlySets.of_fb_eq {s t : State} (h : t.fb = s.fb) : OnlySets s t := fun hwf => by
  rw [h]
  exact ⟨hwf, fun _ _ hbit => hbit⟩

theorem OnlySets.trans {s t u : State} (hst : OnlySets s t) (htu : OnlySets t u) : OnlySets s u := fun hwf => by
  obtain ⟨hwft, hbits⟩ := hst hwf
  obtain ⟨hwfu, hbits'⟩ := htu hwft
  exact ⟨hwfu, fun a n hbit => hbits' a n (hbits a n hbit)⟩

theorem PixelWritten.onlySets {s t : State} {x y : Int} (h : PixelWritten true x y s t) : OnlySets s t := fun _ => by
  refine ⟨h.canonical, fun a n hbit => ?_⟩
  by_cases ha : a = (pixMap x y).1
  · subst ha
    rw [h.bit]
    split
    · rfl
    · exact hbit
  · rw [h.others a ha, hbit]

theorem issue_pixel_onlySets (x y : Int) (c : Byte) (s : State) : OnlySets s (issue (.pixel x y c) s).1 := fun hwf => by
  by_cases hin : onPanel s.cfg x y
  · obtain ⟨t, hissue, written⟩ := issue_pixel_onPanel hwf hin c
    rw [hissue]
    exact written.onlySets hwf
  · rw [issue_pixel_offPanel hin]
    exact OnlySets.of_fb_eq rfl hwf

theorem onlySets_holdsOfParts : HoldsOfParts fun u r => OnlySets u.block r.1.block where
  ends _ _ _ := .of_fb_eq rfl
  reads o u := .of_fb_eq (by rw [readAt_block])
  requests x y u := by
    unfold request
    split
    · exact issue_pixel_onlySets x y 1 u.block
    · exact .of_fb_eq rfl
  proceeds u r rest hr hrest := by
    obtain ⟨t, e⟩ := r
    cases e with
    | none => exact hr.trans (hrest t rfl)
    | some e => exact hr

/-- Settles O58: a read leaves the block, and a PIXEL request sets its bit or changes nothing. -/
theorem decoderNeverClears : Obligations.DecoderNeverClears := by
  unfold Obligations.DecoderNeverClears
  intro magic u hwf
  rw [decodeBitmap_eq_release, release_block]
  exact (onlySets_holdsOfParts.decodeOpened magic u hwf).2

/-! ### The use of the resources (48_clients.md R192) -/

/-- A read or a request, and no read that failed. -/
def isCleanUse (e : Use) : Bool := isInnerUse e && !isFailedRead e

/-- A part of a decode has used the resources for reads and requests that did not fail, and then it has ended; with
CERR_IO exactly when one more read followed, which failed. -/
def UsesResources (u : DecodeSession) (r : DecodeSession × Option ClientError) : Prop :=
  ∃ clean, clean.all isCleanUse = true ∧
    ((r.2 ≠ some .io ∧ r.1.uses = u.uses ++ clean) ∨
      (r.2 = some .io ∧ ∃ o, r.1.uses = u.uses ++ (clean ++ [.read o .failed])))

theorem readAt_usesResources (o : Nat) (u : DecodeSession) : UsesResources u (readAt o u) := by
  obtain ⟨hdone, -, -, -, hnone⟩ | ⟨hfailed, hio⟩ := readAt_cases o u
  · exact ⟨[.read o .done], rfl, .inl ⟨by simp [hnone], by simp [hdone]⟩⟩
  · exact ⟨[], rfl, .inr ⟨hio, o, by simp [hfailed]⟩⟩

theorem request_usesResources (i : Instr) (u : DecodeSession) : UsesResources u (request i u) := by
  cases hopen : u.blockOpen with
  | true => exact ⟨[.requested i], rfl, .inl ⟨request_ne_io i u, by simp [request_open hopen]⟩⟩
  | false => exact ⟨[], rfl, .inl ⟨request_ne_io i u, by simp [request, hopen]⟩⟩

theorem usesResources_holdsOfParts : HoldsOfParts UsesResources where
  ends u e he := ⟨[], rfl, .inl ⟨he, by simp⟩⟩
  reads := readAt_usesResources
  requests _ _ := request_usesResources _
  proceeds u r rest hr hrest := by
    obtain ⟨t, e⟩ := r
    cases e with
    | some e => exact hr
    | none =>
      obtain ⟨before, hbefore, ⟨-, huses⟩ | ⟨hio, -⟩⟩ := hr
      · have hsofar : t.uses = u.uses ++ before := huses
        obtain ⟨after, hafter, hend⟩ := hrest t rfl
        refine ⟨before ++ after, by simp [hbefore, hafter], ?_⟩
        simpa [hsofar] using hend
      · cases hio

/-- The uses of a part, in the terms of the statement. -/
theorem UsesResources.inner {u : DecodeSession} {r : DecodeSession × Option ClientError} (h : UsesResources u r) :
    ∃ inner, r.1.uses = u.uses ++ inner ∧ inner.all isInnerUse = true ∧
      inner.dropLast.all (fun e => !isFailedRead e) = true ∧ (r.2 = some .io ↔ inner.any isFailedRead = true) := by
  obtain ⟨clean, hclean, hend⟩ := h
  have hinner : ∀ e ∈ clean, isInnerUse e = true ∧ isFailedRead e = false := by
    simpa [isCleanUse] using hclean
  obtain ⟨hne, huses⟩ | ⟨hio, o, huses⟩ := hend
  · refine ⟨clean, huses, by simpa using fun e he => (hinner e he).1, ?_, ?_⟩
    · simpa using fun e he => (hinner e (List.dropLast_subset clean he)).2
    · simpa [hne] using fun e he => (hinner e he).2
  · refine ⟨clean ++ [.read o .failed], huses, ?_, ?_, ?_⟩
    · simpa [isInnerUse] using fun e he => (hinner e he).1
    · simpa using fun e he => (hinner e he).2
    · simp [hio, isFailedRead]

/-- A decode whose first read fails ends there. -/
theorem decodeOpened_of_first_read_failed (magic : Byte × Byte) {u : DecodeSession} (h : readAnswerAt u 0 = .failed) :
    (decodeOpened magic u).2 = some .io ∧ (decodeOpened magic u).1.block = u.block := by
  have hanswer : readAnswerAt (acquire u) 0 = .failed := (readAnswerAt_congr rfl rfl 0).trans h
  have hread : readAt 0 (acquire u) = ((readAt 0 (acquire u)).1, some .io) := by
    obtain ⟨-, -, -, hdone, -⟩ | ⟨-, hio⟩ := readAt_cases 0 (acquire u)
    · rw [hanswer] at hdone
      cases hdone
    · exact Prod.ext rfl hio
  have hsignature : checkSignature magic (acquire u) = ((readAt 0 (acquire u)).1, some .io) := by
    rw [checkSignature, loop_cons, hread]
    rfl
  simp [decodeOpened, hsignature]

/-- Settles O59: what is used between the opening and the release is what the parts of the decode use. -/
theorem decodeReleasesItsResources : Obligations.DecodeReleasesItsResources := by
  unfold Obligations.DecodeReleasesItsResources
  intro magic u
  obtain ⟨inner, huses, hinner, hdropLast, hio⟩ := (usesResources_holdsOfParts.decodeOpened magic u).inner
  simp only [decodeBitmap_eq_release, release_fileOpen, release_blockOpen, release_uses, release_block, true_and]
  refine ⟨⟨[.opened .file, .opened .block], inner, [.released .block, .released .file], ?_, rfl, by simp, by simp,
    rfl, by simp, by simp, hinner, hdropLast, hio⟩, decodeOpened_of_first_read_failed magic⟩
  rw [huses, acquire_uses]

/-! ### The decode of a 24-bit bitmap, as one list of reads and one of pixels -/

theorem proceed_assoc {σ : Type} (r : σ × Option ClientError) (f g : σ → σ × Option ClientError) :
    proceed (proceed r f) g = proceed r fun t => proceed (f t) g := by
  obtain ⟨t, e⟩ := r
  cases e <;> rfl

theorem proceed_congr {σ : Type} {r : σ × Option ClientError} {f g : σ → σ × Option ClientError}
    (h : ∀ t, r = (t, none) → f t = g t) : proceed r f = proceed r g := by
  obtain ⟨t, e⟩ := r
  cases e with
  | none => exact h t rfl
  | some e => rfl

theorem proceed_done {σ : Type} (r : σ × Option ClientError) : proceed r (fun t => (t, none)) = r := by
  obtain ⟨t, e⟩ := r
  cases e <;> rfl

theorem loop_map {α β σ : Type} (body : β → σ → σ × Option ClientError) (f : α → β) (xs : List α) (s : σ) :
    loop body (xs.map f) s = loop (fun x => body (f x)) xs s := by
  induction xs generalizing s with
  | nil => rfl
  | cons x xs ih =>
    rw [List.map_cons, loop_cons, loop_cons]
    exact proceed_congr fun t _ => ih t

/-- The pairs of an element of `xs` and one of `ys`, the second running faster. -/
def pairs {α β : Type} (xs : List α) (ys : List β) : List (α × β) := xs.flatMap fun x => ys.map fun y => (x, y)

theorem pairs_cons {α β : Type} (x : α) (xs : List α) (ys : List β) :
    pairs (x :: xs) ys = ys.map (fun y => (x, y)) ++ pairs xs ys := rfl

theorem mem_pairs {α β : Type} {xs : List α} {ys : List β} {p : α × β} : p ∈ pairs xs ys ↔ p.1 ∈ xs ∧ p.2 ∈ ys := by
  simp only [pairs, List.mem_flatMap, List.mem_map]
  constructor
  · rintro ⟨x, hx, y, hy, rfl⟩
    exact ⟨hx, hy⟩
  · rintro ⟨hx, hy⟩
    exact ⟨p.1, hx, p.2, hy, rfl⟩

theorem length_pairs {α β : Type} (xs : List α) (ys : List β) : (pairs xs ys).length = xs.length * ys.length := by
  induction xs with
  | nil => exact (Nat.zero_mul _).symm
  | cons x xs ih =>
    rw [pairs_cons, List.length_append, List.length_map, ih, List.length_cons, Nat.succ_mul, Nat.add_comm]

/-- A loop in a loop is a loop over the pairs. -/
theorem loop_pairs {α β σ : Type} (body : α → β → σ → σ × Option ClientError) (xs : List α) (ys : List β) (s : σ) :
    loop (fun x => loop (body x) ys) xs s = loop (fun p => body p.1 p.2) (pairs xs ys) s := by
  induction xs generalizing s with
  | nil => rfl
  | cons x xs ih =>
    rw [loop_cons, pairs_cons, loop_append, loop_map]
    exact proceed_congr fun t _ => ih t

/-- The pixels of an image, file row and column, in file order. -/
def imagePixels (h : BmpHeader) : List (Nat × Nat) := pairs (List.range h.height) (List.range h.width)

theorem mem_imagePixels {h : BmpHeader} {p : Nat × Nat} : p ∈ imagePixels h ↔ p.1 < h.height ∧ p.2 < h.width := by
  rw [imagePixels, mem_pairs, List.mem_range, List.mem_range]

theorem length_imagePixels (h : BmpHeader) : (imagePixels h).length = h.height * h.width := by
  rw [imagePixels, length_pairs, List.length_range, List.length_range]

/-- The offsets of the signature's and the header's bytes that are read. -/
def leadingOffsets : List Nat := [0, 1] ++ headerOffsets

/-- The decode, between opening and release, of a 24-bit bitmap with header `h`. -/
def decodeImage (h : BmpHeader) (u : DecodeSession) : DecodeSession × Option ClientError :=
  proceed (loop readAt leadingOffsets u) (loop (fun p => paintPixel h p.1 p.2) (imagePixels h))

section

variable {magic : Byte × Byte} {u : DecodeSession} {h : BmpHeader}

theorem checkSignature_eq (hsig : hasSignature magic u.file) : checkSignature magic u = loop readAt [0, 1] u := by
  rw [← proceed_done (loop readAt [0, 1] u)]
  refine proceed_congr fun t hread => ?_
  rw [(loop_readAt_keeps hread).1]
  exact congrArg (t, ·) (if_pos hsig)

theorem decodePicture_eq (hheader : readHeader u.file = some h) (hbpp : h.bpp = 24) :
    decodePicture u = proceed (loop readAt headerOffsets u) (loop (fun p => paintPixel h p.1 p.2) (imagePixels h)) := by
  refine proceed_congr fun t hread => ?_
  simp only [(loop_readAt_keeps hread).1, hheader, if_pos hbpp]
  exact loop_pairs (paintPixel h) _ _ t

theorem decodeBitmap_eq (hsig : hasSignature magic u.file) (hheader : readHeader u.file = some h) (hbpp : h.bpp = 24) :
    decodeBitmap magic u = (release (decodeImage h (acquire u)).1, (decodeImage h (acquire u)).2) := by
  have himage : decodeOpened magic u = decodeImage h (acquire u) := by
    rw [decodeOpened, checkSignature_eq (u := acquire u) hsig, decodeImage, leadingOffsets, loop_append, proceed_assoc]
    refine proceed_congr fun t hread => decodePicture_eq ?_ hbpp
    rw [(loop_readAt_keeps hread).1, acquire_file, hheader]
  rw [decodeBitmap_eq_release, himage]

end

/-! ### When a decode ends without error -/

/-- What is needed before each element is there before the next, so the loop ends without error. -/
theorem loop_completes {α σ : Type} {Q : Nat → σ → Prop} {body : α → σ → σ × Option ClientError} (xs : List α) (n : Nat)
    (hbody : ∀ x ∈ xs, ∀ k s, Q (k + 1) s → (body x s).2 = none ∧ Q k (body x s).1) {s : σ} (hs : Q (xs.length + n) s) :
    (loop body xs s).2 = none ∧ Q n (loop body xs s).1 := by
  induction xs generalizing s with
  | nil => exact ⟨rfl, by simpa using hs⟩
  | cons x xs ih =>
    obtain ⟨hx, hxs⟩ := List.forall_mem_cons.1 hbody
    rw [List.length_cons, Nat.add_right_comm] at hs
    obtain ⟨hnone, hnext⟩ := hx _ s hs
    rw [loop_cons, show body x s = ((body x s).1, none) from Prod.ext rfl hnone]
    exact ih hxs hnext

/-- A decode of `file` is under way, both resources are open, the platform answers the next `n` reads, and the block
meets `P`. -/
structure Ready (P : State → Prop) (file : List Byte) (n : Nat) (u : DecodeSession) : Prop where
  fileOpen  : u.fileOpen = true
  blockOpen : u.blockOpen = true
  file_eq   : u.file = file
  reads     : readsDone u n
  block     : P u.block

section

variable {P : State → Prop} {file : List Byte} {n : Nat} {u : DecodeSession}

theorem Ready.readAt (hu : Ready P file (n + 1) u) {o : Nat} (ho : o < file.length) :
    (readAt o u).2 = none ∧ Ready P file n (readAt o u).1 := by
  obtain ⟨hnone, hreads⟩ := readAt_done hu.fileOpen (hu.file_eq ▸ ho) hu.reads
  exact ⟨hnone, by simp [hu.fileOpen], by simp [hu.blockOpen], by simp [hu.file_eq], hreads, by simpa using hu.block⟩

theorem Ready.request (hu : Ready P file n u) {i : Instr} (hissue : (issue i u.block).2 = none)
    (hblock : P (issue i u.block).1) : (request i u).2 = none ∧ Ready P file n (request i u).1 := by
  rw [request_open hu.blockOpen]
  exact ⟨hissue, hu.fileOpen, hu.blockOpen, hu.file_eq, hu.reads, hblock⟩

/-- The image pixel of file row `r`, column `x` has a byte in the file, and a PIXEL request for it, where that byte asks
for one, completes and keeps `P`. -/
def Paintable (P : State → Prop) (h : BmpHeader) (file : List Byte) (r x : Nat) : Prop :=
  ∃ b, file[pixelOffset h r x]? = some b ∧ (b ≠ 0xFF → ∀ s, P s →
    (issue (.pixel x ((h.height : Int) - 1 - r) 1) s).2 = none ∧ P (issue (.pixel x ((h.height : Int) - 1 - r) 1) s).1)

theorem Ready.paintPixel {h : BmpHeader} {r x : Nat} (hu : Ready P file (n + 1) u) (hpixel : Paintable P h file r x) :
    (paintPixel h r x u).2 = none ∧ Ready P file n (paintPixel h r x u).1 := by
  obtain ⟨b, hbyte, hissue⟩ := hpixel
  obtain ⟨hnone, hnext⟩ := hu.readAt (List.getElem?_eq_some_iff.1 hbyte).1
  rw [Clients.paintPixel, show Clients.readAt (pixelOffset h r x) u = (_, none) from Prod.ext rfl hnone, proceed_none,
    hnext.file_eq, List.getD_eq_getElem?_getD, hbyte, Option.getD_some, paintByte]
  split
  · exact ⟨rfl, hnext⟩
  · next hb =>
    obtain ⟨hdone, hblock⟩ := hissue hb _ hnext.block
    exact hnext.request hdone hblock

theorem readsOf_eq (h : BmpHeader) : readsOf h = leadingOffsets.length + ((imagePixels h).length + 0) := by
  rw [length_imagePixels, Nat.mul_comm]
  rfl

/-- A 24-bit bitmap with paintable pixels decodes without error when the platform answers its reads. -/
theorem decode_completes {magic : Byte × Byte} {h : BmpHeader} (hsig : hasSignature magic u.file)
    (hheader : readHeader u.file = some h) (hbpp : h.bpp = 24) (hreads : readsDone u (readsOf h)) (hblock : P u.block)
    (hpixels : ∀ r x, r < h.height → x < h.width → Paintable P h u.file r x) :
    (decodeBitmap magic u).2 = none ∧ P (decodeBitmap magic u).1.block := by
  have hlength : 37 < u.file.length := (readHeader_isSome_iff u.file).1 (by rw [hheader]; rfl)
  have hleading : ∀ o ∈ leadingOffsets, o ≤ 37 := by decide
  have hready : Ready P u.file (readsOf h) (acquire u) := ⟨rfl, rfl, rfl, hreads, hblock⟩
  rw [readsOf_eq] at hready
  obtain ⟨hread, hbegun⟩ := loop_completes leadingOffsets _
    (fun o ho _ _ hu => hu.readAt (Nat.lt_of_le_of_lt (hleading o ho) hlength)) hready
  obtain ⟨hpaint, hend⟩ := loop_completes (imagePixels h) 0
    (fun p hp _ _ hu => hu.paintPixel (hpixels p.1 p.2 (mem_imagePixels.1 hp).1 (mem_imagePixels.1 hp).2)) hbegun
  rw [decodeBitmap_eq hsig hheader hbpp, decodeImage,
    show loop readAt leadingOffsets (acquire u) = (_, none) from Prod.ext rfl hread, proceed_none,
    release_block]
  exact ⟨hpaint, hend.block⟩

end

/-- A white pixel asks for no request, so it is paintable whatever the block must keep. -/
theorem paintable_of_white {h : BmpHeader} {file : List Byte} {r x : Nat}
    (hwhite : file[pixelOffset h r x]? = some 0xFF) (P : State → Prop) : Paintable P h file r x :=
  ⟨0xFF, hwhite, fun hne => absurd rfl hne⟩

/-- A pixel that stands on the panel is paintable, the block keeping its configuration and its canonical form. -/
theorem paintable_of_onPanel {h : BmpHeader} {file : List Byte} {r x : Nat} {c : Cfg}
    (hbyte : pixelOffset h r x < file.length) (hin : onPanel c x ((h.height : Int) - 1 - r)) :
    Paintable (fun s => s.fb.wf = true ∧ s.cfg = c) h file r x := by
  refine ⟨_, List.getElem?_eq_getElem hbyte, fun _ s ⟨hwf, hcfg⟩ => ?_⟩
  obtain ⟨t, hissue, written⟩ := issue_pixel_onPanel hwf (hcfg ▸ hin) 1
  rw [hissue]
  exact ⟨rfl, written.canonical, written.cfg.trans hcfg⟩

/-! ### The pixels a decode has painted (48_clients.md R191) -/

/-- The image pixel `p`, file row and column, stands at `(x, y)` and its first byte is not 0xFF. -/
def inks (h : BmpHeader) (file : List Byte) (p : Nat × Nat) (x y : Int) : Prop :=
  x = p.2 ∧ y = (h.height : Int) - 1 - p.1 ∧ ∃ b, file[pixelOffset h p.1 p.2]? = some b ∧ b ≠ 0xFF

/-- From `u` to `t` the pixels of `ink` have been set, and no other pixel of the panel. -/
structure Painted (ink : Int → Int → Prop) (u t : DecodeSession) : Prop where
  file      : t.file = u.file
  cfg       : t.block.cfg = u.block.cfg
  canonical : t.block.fb.wf = true
  pixels    : ∀ x y, onPanel u.block.cfg x y →
    (pixelOn t.block x y = true ↔ pixelOn u.block x y = true ∨ ink x y)

section

variable {u v t : DecodeSession} {ink ink' : Int → Int → Prop} {h : BmpHeader}

theorem Painted.trans (huv : Painted ink u v) (hvt : Painted ink' v t) :
    Painted (fun x y => ink x y ∨ ink' x y) u t where
  file := hvt.file.trans huv.file
  cfg := hvt.cfg.trans huv.cfg
  canonical := hvt.canonical
  pixels x y hin := by
    rw [hvt.pixels x y (huv.cfg ▸ hin), huv.pixels x y hin, or_assoc]

theorem Painted.congr (hpainted : Painted ink u t) (hink : ∀ x y, ink x y ↔ ink' x y) : Painted ink' u t := by
  rwa [show ink' = ink from funext fun x => funext fun y => propext (hink x y).symm]

theorem Painted.of_block_eq (hwf : u.block.fb.wf = true) (hfile : t.file = u.file) (hblock : t.block = u.block)
    (hink : ∀ x y, ¬ ink x y) : Painted ink u t where
  file := hfile
  cfg := congrArg State.cfg hblock
  canonical := hblock ▸ hwf
  pixels x y _ := by rw [hblock, or_iff_left (hink x y)]

theorem Painted.of_request (hwf : u.block.fb.wf = true) {x y : Int} (h : request (.pixel x y 1) u = (t, none)) :
    Painted (fun x' y' => x' = x ∧ y' = y) u t := by
  obtain ⟨hissue, hfile⟩ := request_eq_none h
  obtain ⟨hin, written⟩ := pixelWritten_of_issue_eq_none hwf hissue
  exact ⟨hfile, written.cfg, written.canonical, fun x' y' hin' => written.pixelOn_iff hin hin'⟩

/-- A file pixel is set unless its byte is 0xFF, which asks for nothing. -/
theorem paintByte_painted {b : Byte} {x y : Int} (hwf : u.block.fb.wf = true) (hpaint : paintByte b x y u = (t, none)) :
    Painted (fun x' y' => (x' = x ∧ y' = y) ∧ b ≠ 0xFF) u t := by
  unfold paintByte at hpaint
  split at hpaint
  · next hb =>
    cases hpaint
    exact .of_block_eq hwf rfl rfl fun _ _ hink => hink.2 hb
  · next hb => exact (Painted.of_request hwf hpaint).congr fun _ _ => (and_iff_left hb).symm

/-- A pixel's read leaves the block, and its byte then decides. -/
theorem paintPixel_painted {p : Nat × Nat} (hwf : u.block.fb.wf = true) (hpaint : paintPixel h p.1 p.2 u = (t, none)) :
    Painted (inks h u.file p) u t := by
  obtain ⟨v, hread, hbyte⟩ := proceed_eq_none hpaint
  obtain ⟨hlt, hfile, hblock⟩ := readAt_eq_none hread
  obtain ⟨b, hb⟩ : ∃ b, u.file[pixelOffset h p.1 p.2]? = some b := ⟨_, List.getElem?_eq_getElem hlt⟩
  rw [hfile, List.getD_eq_getElem?_getD, hb, Option.getD_some] at hbyte
  have hpainted := (Painted.of_block_eq hwf hfile hblock fun _ _ => id).trans (paintByte_painted (hblock ▸ hwf) hbyte)
  refine hpainted.congr fun x y => ?_
  simp [inks, hb, and_assoc]

theorem loop_painted {ps : List (Nat × Nat)} (hwf : u.block.fb.wf = true)
    (hpaint : loop (fun p => paintPixel h p.1 p.2) ps u = (t, none)) :
    Painted (fun x y => ∃ p ∈ ps, inks h u.file p x y) u t := by
  induction ps generalizing u with
  | nil =>
    cases hpaint
    exact .of_block_eq hwf rfl rfl (by simp)
  | cons p ps ih =>
    obtain ⟨v, hfirst, hrest⟩ := proceed_eq_none hpaint
    have hpainted := paintPixel_painted hwf hfirst
    refine (hpainted.trans (ih hpainted.canonical hrest)).congr fun x y => ?_
    simp only [hpainted.file, List.mem_cons, or_and_right, exists_or, exists_eq_left]

/-- A decode without error has painted the image's pixels that are not white. -/
theorem decodeImage_painted (hwf : u.block.fb.wf = true) (hdecode : (decodeImage h u).2 = none) :
    Painted (fun x y => ∃ p ∈ imagePixels h, inks h u.file p x y) u (decodeImage h u).1 := by
  obtain ⟨v, hread, hpaint⟩ := proceed_eq_none (r := loop readAt leadingOffsets u) (Prod.ext rfl hdecode)
  obtain ⟨hfile, hblock⟩ := loop_readAt_keeps hread
  have hpainted := loop_painted (hblock ▸ hwf) hpaint
  refine ((Painted.of_block_eq hwf hfile hblock fun _ _ => id).trans hpainted).congr fun x y => ?_
  rw [hfile, false_or]

/-- The image pixel that stands at `(x, y)` is the one of column `x` in file row `height - 1 - y`. -/
theorem exists_inks_iff (h : BmpHeader) (file : List Byte) (x y : Nat) :
    (∃ p ∈ imagePixels h, inks h file p x y) ↔
      x < h.width ∧ y < h.height ∧ ∃ b, file[pixelOffset h (h.height - 1 - y) x]? = some b ∧ b ≠ 0xFF := by
  constructor
  · rintro ⟨⟨r, x'⟩, hp, hx, hy, hbyte⟩
    obtain ⟨hr, hx'⟩ := mem_imagePixels.1 hp
    dsimp only at hr hx' hx hy hbyte
    obtain rfl : x = x' := by omega
    obtain rfl : r = h.height - 1 - y := by omega
    exact ⟨hx', by omega, hbyte⟩
  · rintro ⟨hx, hy, hbyte⟩
    exact ⟨(h.height - 1 - y, x), mem_imagePixels.2 ⟨by dsimp only; omega, hx⟩, rfl, by dsimp only; omega, hbyte⟩

end

/-- Settles O60: white pixels and pixels that fit the panel are paintable, and a decode without error has painted the
image's pixels that are not white. -/
theorem bitmapPaintsNonWhitePixels : Obligations.BitmapPaintsNonWhitePixels := by
  unfold Obligations.BitmapPaintsNonWhitePixels
  intro magic u h hsig hheader hbpp hwf
  refine ⟨fun hreads hwhite => ?_, fun hdecode x y hin => ?_, fun hreads hwidth hheight hfile => ?_⟩
  · exact decode_completes (P := (· = u.block)) hsig hheader hbpp hreads rfl
      fun r x hr hx => paintable_of_white (hwhite r x hr hx) _
  · rw [decodeBitmap_eq hsig hheader hbpp] at hdecode ⊢
    rw [release_block, ← exists_inks_iff]
    have hpainted := decodeImage_painted (h := h) (u := acquire u) hwf hdecode
    exact hpainted.pixels x y hin
  · refine (decode_completes (P := fun s => s.fb.wf = true ∧ s.cfg = u.block.cfg) hsig hheader hbpp hreads
      ⟨hwf, rfl⟩ fun r x hr hx => ?_).1
    exact paintable_of_onPanel (hfile r x hr hx) (by unfold onPanel; omega)

end Sys2Proof.Proofs

/-! ## Errors (60_exceptions.md): what each operation can answer, and what an error leaves behind -/

namespace Sys2Proof.Proofs

open Sys2Proof.Machine Sys2Proof.Safety Sys2Proof.Laws

/-! ### Pixels out of range (60_exceptions.md R154) -/

/-- Settles O25: a coordinate outside one of the four bounds is not on the panel, and PIXEL is SETPIX with state 1. -/
theorem outOfRangePixelsWriteNothing : Obligations.OutOfRangePixelsWriteNothing := by
  unfold Obligations.OutOfRangePixelsWriteNothing
  intro s x y c hrange
  have hout : ¬ onPanel s.cfg x y := by unfold onPanel; omega
  exact ⟨exec_setpix_offPanel hout c, exec_setpix_offPanel hout 1⟩

/-! ### The three ways an operation ends (60_exceptions.md R152, R153) -/

/-- How many transactions an operation sends when it accepts its operands and none fails: ERR_BUS counts fewer
(60_exceptions.md R156). -/
def transactions : Instr → Nat
  | .clear | .setpix _ _ _ | .pixel _ _ _ | .wrbyte _ _ | .poweron => 0
  | .wrcmd _ | .poweroff | .invert _ => 1
  | .contrast _ => 2
  | .setcols _ _ _ | .setpages _ _ _ => 3
  | .display => 7
  | .initdisp => 24

/-- The range errors an operation can raise (60_exceptions.md R153). -/
def RangeError (c : Cfg) : Instr → Err → Prop
  | .setpix x y _, e | .pixel x y _, e => e = .pixelRange x y
  | .wrbyte k _, e => e = .byteRange k
  | .setcols start stop v, e =>
    e = .window .col .start start 0 127 ∨
      e = .window .col .stop (if v.getLsbD 0 then 127 else stop) start 127
  | .setpages start stop v, e =>
    e = .window .page .start start 0 ((c.height.rows : Int) / 8 - 1) ∨
      e = .window .page .stop (if v.getLsbD 0 then (c.height.rows : Int) / 8 - 1 else stop) start
        ((c.height.rows : Int) / 8 - 1)
  | .clear, _ | .poweron, _ | .wrcmd _, _ | .display, _ | .initdisp, _ | .poweroff, _ | .contrast _, _
  | .invert _, _ => False

theorem RangeError.code_ne_bus {c : Cfg} {i : Instr} {e : Err} (h : RangeError c i e) : e.code ≠ 0x04 := by
  cases i with
  | setpix | pixel | wrbyte => cases h; simp [Err.code]
  | setcols | setpages => rcases h with rfl | rfl <;> exact window_code
  | clear | poweron | wrcmd | display | initdisp | poweroff | contrast | invert => exact h.elim

/-- How an operation begun in `s` ends, with its last state and its response: it completes; or a transaction of it is
the first to fail; or it has refused its operands, with nothing done but perhaps the setters' `seq <- 0` (log 6). -/
inductive Ending (i : Instr) (s : State) : State → Response → Prop where
  | completed (t : State) : Ending i s t okResponse
  | failed (t : State) {k : Nat} (hk : k < transactions i) (hfail : failsAt s k) : Ending i s t (busError k)
  | refused (q : Nat) {e : Err} (he : RangeError s.cfg i e) :
      Ending i s (answered { s with seq := q } e.response) e.response

/-- The operation ends in `t`, and its response is `a`. -/
def EndsIn (i : Instr) (s t : State) (a : Response) : Prop :=
  exec i s = .next t ∧ t.trace.getLast? = some (.response a)

section
variable {i : Instr} {s t : State} {a : Response}

theorem endsIn_of_trace {events : List Event} (hexec : exec i s = .next t)
    (htrace : t.trace = events ++ [.response a]) : EndsIn i s t a :=
  ⟨hexec, by rw [htrace, List.getLast?_concat]⟩

/-- An operation has one ending. -/
theorem EndsIn.unique {t' : State} {a' : Response} (h : EndsIn i s t a) (h' : EndsIn i s t' a') : t' = t ∧ a' = a := by
  obtain ⟨hexec, hlast⟩ := h
  obtain ⟨hexec', hlast'⟩ := h'
  cases hexec.symm.trans hexec'
  cases hlast.symm.trans hlast'
  exact ⟨rfl, rfl⟩

/-- The operation ends in one of the three ways. -/
def Ends (i : Instr) (s : State) : Prop := ∃ t a, EndsIn i s t a ∧ Ending i s t a

theorem ends_of_completed (h : EndsIn i s t okResponse) : Ends i s := ⟨_, _, h, .completed t⟩

theorem ends_of_refused {q : Nat} {e : Err} (h : exec i s = .next (answered { s with seq := q } e.response))
    (he : RangeError s.cfg i e) : Ends i s :=
  ⟨_, _, endsIn_of_trace h rfl, .refused q he⟩

theorem endsIn_afterBus {n q : Nat} {f : Fsm} {events : List Event}
    (h : exec i s = .next (afterBus s n q f events a)) : ∃ t, EndsIn i s t a :=
  ⟨_, endsIn_of_trace h rfl⟩

/-- An operation that sends: the platform ACKs its transactions, or fails a first one of them. -/
theorem ends_of_transactions (hack : allAck s (transactions i) → ∃ t, EndsIn i s t okResponse)
    (hfail : ∀ k, k < transactions i → failsAt s k → ∃ t, EndsIn i s t (busError k)) : Ends i s := by
  rcases allAck_or_failsAt s (transactions i) with h | ⟨k, hk, h⟩
  · obtain ⟨t, ht⟩ := hack h
    exact ends_of_completed ht
  · obtain ⟨t, ht⟩ := hfail k hk h
    exact ⟨_, _, ht, .failed t hk h⟩

/-- An operation that is a list of control frames. -/
theorem sendCmds_ends {bytes : List Byte} (hexec : exec i s = finish (sendCmds bytes (setSeq 0 s)))
    (hn : bytes.length = transactions i) : Ends i s :=
  ends_of_transactions (fun h => endsIn_afterBus (hexec.trans (finish_sendCmds_allAck _ hn h)))
    fun _ hk h => endsIn_afterBus (hexec.trans (finish_sendCmds_failsAt _ (hn ▸ hk) h))

/-- An operation that is a list of control frames, and then a move of `fsm`. -/
theorem sendCmds_thenFsm_ends {bytes : List Byte} {move : Fsm → Fsm}
    (hexec : exec i s = finish ((sendCmds bytes (setSeq 0 s)).andThen fun t => .done (setFsm (move t.fsm) t)))
    (hn : bytes.length = transactions i) : Ends i s :=
  ends_of_transactions (fun h => endsIn_afterBus (hexec.trans (finish_sendCmds_thenFsm_allAck _ hn h move)))
    fun _ hk h => endsIn_afterBus (hexec.trans (finish_sendCmds_andThen_failsAt _ (hn ▸ hk) h _))

/-- A window setter: the start test, then the end test, then three transactions (43_window.md R141). -/
theorem setter_ends {axis : Axis} {command : Byte} {start stop bound : Int}
    (hexec : exec i s = finish (sendWindow axis command start stop bound s)) (hthree : transactions i = 3)
    (hstartErr : RangeError s.cfg i (.window axis .start start 0 bound))
    (hstopErr : RangeError s.cfg i (.window axis .stop stop start bound)) : Ends i s := by
  by_cases hstart : 0 ≤ start ∧ start ≤ bound
  · by_cases hstop : start ≤ stop ∧ stop ≤ bound
    · refine ends_of_transactions (fun h => ?_) fun k hk h => ?_
      · exact endsIn_afterBus (hexec.trans (finish_sendWindow_allAck hstart hstop (hthree ▸ h)))
      · exact endsIn_afterBus (hexec.trans (finish_sendWindow_failsAt hstart hstop k (hthree ▸ hk) h))
    · exact ends_of_refused (hexec.trans (finish_sendWindow_badStop hstart hstop)) hstopErr
  · exact ends_of_refused (hexec.trans (finish_sendWindow_badStart hstart)) hstartErr

/-- SETPIX, and PIXEL, which is SETPIX with state 1 (40_buffer.md R90). -/
theorem pixelOp_ends {x y : Int} {c : Byte} (hexec : exec i s = exec (.setpix x y c) s)
    (herr : RangeError s.cfg i (.pixelRange x y)) : Ends i s := by
  by_cases h : onPanel s.cfg x y
  · exact ends_of_completed (endsIn_of_trace (hexec.trans (exec_setpix_onPanel h c)) rfl)
  · exact ends_of_refused (q := s.seq) (e := .pixelRange x y) (hexec.trans (exec_setpix_offPanel h c)) herr

end

theorem wrbyte_ends (k : Int) (v : Byte) (s : State) : Ends (.wrbyte k v) s := by
  by_cases h : 1 ≤ k ∧ k < (s.cfg.fbLen : Int)
  · exact ends_of_completed (endsIn_of_trace (exec_wrbyte_inside h v) rfl)
  · exact ends_of_refused (q := s.seq) (e := .byteRange k) (exec_wrbyte_outside h v) rfl

theorem display_ends (s : State) : Ends .display s := by
  refine ends_of_transactions (fun h => endsIn_afterBus (exec_display_allAck h)) fun k hk h => ?_
  rcases Nat.lt_succ_iff_lt_or_eq.1 hk with hwindow | rfl
  · exact endsIn_afterBus (exec_display_failsAt_window hwindow h)
  · exact endsIn_afterBus (exec_display_failsAt_data h)

theorem initdisp_ends (s : State) : Ends .initdisp s := by
  refine ends_of_transactions (fun h => endsIn_afterBus (exec_initdisp_allAck h)) fun k hk h => ?_
  rcases Nat.lt_succ_iff_lt_or_eq.1 hk with hconfig | rfl
  · exact endsIn_afterBus (exec_initdisp_failsAt_config (Nat.le_of_lt_succ hconfig) h)
  · exact endsIn_afterBus (exec_initdisp_failsAt_displayOn h)

/-- Every operation ends in one of the three ways, by what it was shown to do in each case of the platform's answers
and of its operands. -/
theorem exec_ends_in_one_way (i : Instr) (s : State) : Ends i s := by
  cases i with
  | clear => exact ends_of_completed (endsIn_of_trace (exec_clear_eq s) rfl)
  | setpix x y c => exact pixelOp_ends rfl rfl
  | pixel x y c => exact pixelOp_ends (exec_pixel_eq_setpix x y c s) rfl
  | wrbyte k v => exact wrbyte_ends k v s
  | poweron => exact ends_of_completed (endsIn_of_trace (exec_poweron_eq s) rfl)
  | wrcmd c => exact sendCmds_ends (exec_wrcmd_eq c s) rfl
  | contrast c => exact sendCmds_ends (exec_contrast_eq c s) rfl
  | poweroff => exact sendCmds_thenFsm_ends (move := fun _ => .off) (exec_poweroff_eq s) rfl
  | invert c => exact sendCmds_thenFsm_ends (exec_invert_eq c s) rfl
  | display => exact display_ends s
  | initdisp => exact initdisp_ends s
  | setcols start stop c => exact setter_ends (exec_setcols_eq start stop c s) rfl (.inl rfl) (.inr rfl)
  | setpages start stop c => exact setter_ends (exec_setpages_eq start stop c s) rfl (.inl rfl) (.inr rfl)

/-! ### ERR_BUS (60_exceptions.md R156) -/

section
variable {c : Cfg} {shown : List Event} {a : Response}

theorem FailureIsLast.status_iff (h : FailureIsLast c shown a) :
    a.status = 0x04 ↔ shown.any isFailedTx = true := by
  obtain ⟨hnone, hstatus⟩ | ⟨before, bytes, rfl, -, rfl⟩ := h
  · exact iff_of_false hstatus (by simpa using hnone)
  · exact iff_of_true rfl (by simp [isFailedTx])

theorem FailureIsLast.count {k : Nat} (h : FailureIsLast c shown (busError k)) :
    (shown.filter isAckedTx).length = k := by
  obtain ⟨-, hstatus⟩ | ⟨before, bytes, rfl, -, ha⟩ := h
  · exact absurd rfl hstatus
  · simpa [busError, isAckedTx] using ha.symm

end

/-- Settles O44: R103 says when ERR_BUS is answered and with which count, the operation's ending says of which
transaction. -/
theorem busErrorCountsPerOperation : Obligations.BusErrorCountsPerOperation := by
  unfold Obligations.BusErrorCountsPerOperation
  intro i s
  obtain ⟨t, events, a, hexec, htrace, hlast⟩ := busFailureEndsOperation i s
  have hlast : FailureIsLast s.cfg events a := hlast
  refine ⟨t, events, a, hexec, htrace, hlast.status_iff, fun hstatus => ?_⟩
  obtain ⟨t', a', hends, ending⟩ := exec_ends_in_one_way i s
  obtain ⟨rfl, rfl⟩ := (endsIn_of_trace hexec htrace).unique hends
  cases ending with
  | completed => exact absurd hstatus (by decide)
  | refused q he => exact absurd hstatus he.code_ne_bus
  | @failed _ k hk hfail =>
    refine ⟨k, rfl, hfail, hlast.count, ?_⟩
    cases i with
    | clear | setpix | pixel | wrbyte | poweron => exact Nat.not_lt_zero k hk
    | wrcmd | poweroff | invert => exact Nat.lt_one_iff.1 hk
    | contrast | setcols | setpages | display | initdisp => exact Nat.le_of_lt_succ hk

/-! ### The table of codes (60_exceptions.md R153) and range errors (60_exceptions.md R152) -/

/-- Settles O45: an operation's ending gives its row of the table; only one with transactions can answer ERR_BUS. -/
theorem statusCodesPerOperation : Obligations.StatusCodesPerOperation := by
  unfold Obligations.StatusCodesPerOperation
  refine ⟨fun op s => ⟨_, illegalRequest_eq op s, List.getLast?_concat⟩, fun i s => ?_⟩
  obtain ⟨t, a, ⟨hexec, hlast⟩, ending⟩ := exec_ends_in_one_way i s
  refine ⟨t, a, hexec, hlast, ?_⟩
  cases ending with
  | completed => exact .inl rfl
  | @failed _ k hk hfail =>
    refine .inr ?_
    cases i with
    | clear | setpix | pixel | wrbyte | poweron => exact absurd hk (Nat.not_lt_zero k)
    | wrcmd | display | initdisp | poweroff | contrast | invert => exact ⟨k, rfl⟩
    | setcols | setpages => exact .inl ⟨k, rfl⟩
  | refused q he =>
    refine .inr ?_
    cases i with
    | clear | poweron | wrcmd | display | initdisp | poweroff | contrast | invert => exact he.elim
    | setpix | pixel | wrbyte => exact congrArg Err.response he
    | setcols | setpages => exact .inr (he.imp (congrArg _) (congrArg _))

/-- Settles O46: an error that is not ERR_BUS is a refusal of the operands. -/
theorem rangeErrorsHaveNoEffect : Obligations.RangeErrorsHaveNoEffect := by
  unfold Obligations.RangeErrorsHaveNoEffect
  intro i s
  obtain ⟨t, a, ⟨hexec, hlast⟩, ending⟩ := exec_ends_in_one_way i s
  refine ⟨t, a, hexec, hlast, fun hok hbus => ?_⟩
  cases ending with
  | completed => exact absurd rfl hok
  | failed => exact absurd rfl hbus
  | refused => rfl

end Sys2Proof.Proofs

/-! ## Construction (70_reset_and_hazards.md): the block's one reset, its arguments and its values -/

namespace Sys2Proof.Proofs

open Sys2Proof.Machine Sys2Proof.Safety Sys2Proof.Laws

/-! ### The height argument (10_state.md R18) -/

theorem ofArgument_rows (h : Height) : Height.ofArgument h.rows = some h := by
  cases h <;> rfl

theorem exists_rows_eq {rows : Nat} (hlegal : rows = 32 ∨ rows = 64) : ∃ h : Height, h.rows = rows := by
  rcases hlegal with rfl | rfl
  · exact ⟨.h32, rfl⟩
  · exact ⟨.h64, rfl⟩

theorem ofArgument_of_illegal {rows : Nat} (hillegal : ¬ (rows = 32 ∨ rows = 64)) : Height.ofArgument rows = none := by
  unfold Height.ofArgument
  rw [if_neg (mt .inl hillegal), if_neg (mt .inr hillegal)]

/-! ### The answer of a construction (70_reset_and_hazards.md R200, R201) -/

theorem initTable_get_ofFn (f : Height → Bool → InitParams) (h : Height) (e : Bool) :
    (InitTable.ofFn f).get h e = f h e := by
  cases h <;> cases e <;> rfl

/-- The configuration that legal construction arguments name (70_reset_and_hazards.md R200). -/
def constructedCfg (h : Height) (ext : Bool) (addr : Nat) (hasRst : Bool) (ip : Height → Bool → InitParams)
    (tp : Nat) : Cfg :=
  { height := h, extSupply := ext, addr := BitVec.ofNat 7 addr, hasRst := hasRst, initParams := .ofFn ip,
    tPowerMs := tp }

section
variable {ext : Bool} {addr : Nat} {hasRst : Bool} {ip : Height → Bool → InitParams} {tp : Nat}

theorem constructedCfg_addr_toNat {h : Height} (haddr : addr ≤ 127) :
    (constructedCfg h ext addr hasRst ip tp).addr.toNat = addr :=
  Nat.mod_eq_of_lt (Nat.lt_succ_of_le haddr)

theorem construct_of_illegal_height {rows : Nat} (hillegal : ¬ (rows = 32 ∨ rows = 64)) :
    State.construct rows ext addr hasRst ip tp = none := by
  unfold State.construct
  rw [ofArgument_of_illegal hillegal]

theorem construct_rows (h : Height) :
    State.construct h.rows ext addr hasRst ip tp =
      if addr ≤ 127 then some (State.ofCfg (constructedCfg h ext addr hasRst ip tp)) else none := by
  unfold State.construct
  rw [ofArgument_rows]
  rfl

end

theorem ofCfg_read_of_pos (c : Cfg) {i : Nat} (hi : 1 ≤ i) : (State.ofCfg c).fb.read i = 0x00 :=
  if_neg (Nat.ne_of_gt hi)

/-- Settles O12: the height is checked first; for a legal one the address decides. -/
theorem constructionRefusesBadArguments : Obligations.ConstructionRefusesBadArguments := by
  unfold Obligations.ConstructionRefusesBadArguments
  intro height ext addr hasRst ip tp
  by_cases hlegal : height = 32 ∨ height = 64
  · obtain ⟨h, rfl⟩ := exists_rows_eq hlegal
    simp [construct_rows, hlegal]
  · exact iff_of_true (construct_of_illegal_height hlegal) (.inl hlegal)

/-- Settles O11: the configuration is the arguments; the marker and the reset line are as the invariant has them, and
the other pieces of state are the constants of `State.ofCfg`. -/
theorem constructionGivesResetValues : Obligations.ConstructionGivesResetValues := by
  unfold Obligations.ConstructionGivesResetValues
  intro height ext addr hasRst ip tp hlegal haddr
  obtain ⟨h, rfl⟩ := exists_rows_eq hlegal
  have hinv : Inv (State.ofCfg (constructedCfg h ext addr hasRst ip tp)) := ofCfg_inv _ [] []
  exact ⟨_, (construct_rows h).trans (if_pos haddr), rfl, rfl, constructedCfg_addr_toNat haddr, rfl,
    initTable_get_ofFn ip, rfl, rfl, rfl, hinv.marker, fun _ hi _ => ofCfg_read_of_pos _ hi,
    rfl, rfl, rfl, hinv.line, rfl⟩

/-- Settles O52: `ofCfg_inv` says it of every configuration. -/
theorem constructionMeetsInv : Obligations.ConstructionMeetsInv := by
  unfold Obligations.ConstructionMeetsInv
  exact ofCfg_inv

end Sys2Proof.Proofs
